-- ==== Sys2Proof/Word.lean ====
section
/-! DEFINITION. The word types of the Bleep-Drum-PIO tick engine.

Widths are the ones of `spec/00_scope.md` R8 and `spec/10_state.md` R57; bit 0 is the least significant bit and
every value is unsigned unless a rule says otherwise (R10). -/

namespace Sys2Proof

/-- One 32-bit command word, accumulator, counter or register-view value (R57, R100). -/
abbrev Word := BitVec 32

/-- A 16-bit value: an increment, a table index, a pitch slot, a rate register (R8 INC_WIDTH, IDX_WIDTH). -/
abbrev Half := BitVec 16

/-- An unsigned byte: a sample-table entry or an emitted sample (R81, R212). -/
abbrev Byte := BitVec 8

/-- A track number T0..T3; T2 and T3 are the melodic tracks (R8 N_TRACKS). -/
abbrev Track := Fin 4

/-- A melodic index: 0 is track T2 with voice V4, 1 is track T3 with voice V5 (R43). -/
abbrev Melodic := Fin 2

/-- A voice number V0..V5; V4 and V5 are the pitched voices (R8 N_VOICES). -/
abbrev VoiceNo := Fin 6

/-- A sequencer slot number 0..127 of one track (R80). -/
abbrev Slot := BitVec 7

/-- A step index 0..31 (R36). -/
abbrev StepNo := BitVec 5

end Sys2Proof
end

