-- ==== Sys2Proof/Config.lean ====
section
/-! DEFINITION. The parameters of the block (`spec/00_scope.md` R8, R9; `spec/93_implementation_defined.md` section 2).

The configuration is an ARGUMENT of the machine: a `Config` stands in the state and no operation writes it (R81,
R300). The spec's OPEN parameters have no value here. `Config.installed`, the configuration of the reset state, is a
constant without a body: nothing can be proved of its values but what R9 asks of every configuration. -/

namespace Sys2Proof

/-- CENTER, the recentring constant and the silence level (R8; decision D25). -/
def centre : Int := 127

/-- CLICK_AMP_MAX (R8, R137). -/
def clickAmpMax : BitVec 7 := 64

/-- CLICK_DECAY_PERIOD in TICKs (R8, R138). -/
def clickDecayPeriod : BitVec 3 := 5

/-- CLICK_FLOOR: a decayed amplitude below it is clamped to 0 (R8, R138). -/
def clickFloor : BitVec 7 := 4

/-- ERASE_THRESHOLD in LOOPITER commands (R8, R242). -/
def eraseThreshold : BitVec 10 := 800

/-- FRAC_BITS of every phase accumulator (R8, R183, R203, R206). -/
def fracBits : Nat := 6

/-- TAP_SHIFT (R8, R141). -/
def tapShift : Nat := 2

/-- The largest LEN[v] a configuration may hold (R9). -/
def maxLen : Nat := 64511

/-- The parameters of R8 that a model takes as arguments, as plain data.
A parameter with a default in the spec has that default here; the others (OPEN) have none. -/
structure ConfigData where
  /-- LEN[v]: the largest valid table index of voice v (R8; decision D18). -/
  len : Vector Nat 6
  /-- The sample ROMs; several voices may name one table (R81; decision D45). -/
  tables : List (List Byte)
  /-- TABLE_OF_VOICE[v]: which of `tables` voice v reads (R8). -/
  tableOfVoice : Vector Nat 6
  /-- VOICE_INC[v] of the percussive voices V0..V3 (R8, R46). -/
  voiceInc : Vector Half 4
  /-- CLICK_TABLE, its length being CLICK_TABLE_SIZE (R8, R203). -/
  clickTable : List Byte
  /-- CLICK_INC_LOW (R8, R137). -/
  clickIncLow : Half
  /-- CLICK_INC_MID (R8, R137). -/
  clickIncMid : Half
  /-- CLICK_INC_HIGH (R8, R137). -/
  clickIncHigh : Half
  /-- NOISE_TABLE, its length being NOISE_TABLE_SIZE (R8, R206). -/
  noiseTable : List Byte
  /-- TRACK_VOICES[t]: the voices track t triggers (R8, R164; decision D14). -/
  trackVoices : Vector (List VoiceNo) 4 := #v[[0, 2], [1, 3], [4], [5]]
  /-- BANK_OFFSETS (R8, R82; `spec/90_conflicts.md` C1 keeps the literal offsets). -/
  bankOffsets : Vector Nat 4 := #v[0, 31, 63, 95]
  /-- STEP_LENGTH_RESET (R8; decision D6). -/
  stepLengthReset : Word := 1225
  /-- BLEND_CLICK_SHIFT (R8; decision D24). -/
  blendClickShift : Nat := 1
  /-- STOP_RESETS_VOICES (R8; decision D12). -/
  stopResetsVoices : Bool := true
  deriving DecidableEq, Repr

namespace ConfigData

/-- `TABLE[v]`, the ROM of voice v; no table where TABLE_OF_VOICE[v] names none (R81). -/
def table (d : ConfigData) (v : VoiceNo) : List Byte :=
  (d.tables[d.tableOfVoice[v]]?).getD []

/-- R9: every LEN[v] is at most 64511. -/
def lengthsBounded (d : ConfigData) : Bool :=
  (List.finRange 6).all fun v => d.len[v] ≤ maxLen

/-- R9: every table named by TABLE_OF_VOICE[v] has at least LEN[v] + 1 entries. -/
def tablesLongEnough (d : ConfigData) : Bool :=
  (List.finRange 6).all fun v => d.len[v] + 1 ≤ (d.table v).length

/-- R9: CLICK_TABLE_SIZE >= 1. -/
def clickTableNonempty (d : ConfigData) : Bool := 1 ≤ d.clickTable.length

/-- R9: NOISE_TABLE_SIZE >= 1. -/
def noiseTableNonempty (d : ConfigData) : Bool := 1 ≤ d.noiseTable.length

/-- R9: V4 appears only in TRACK_VOICES[T2], V5 only in TRACK_VOICES[T3], V0..V3 only in those of T0 and T1. -/
def routingLegal (d : ConfigData) : Bool :=
  (List.finRange 4).all fun t => d.trackVoices[t].all fun v =>
    if v.val = 4 then t.val == 2 else if v.val = 5 then t.val == 3 else decide (t.val < 2)

/-- R8: CLICK_INC_LOW < CLICK_INC_MID < CLICK_INC_HIGH (decision D21). -/
def clickPitchesOrdered (d : ConfigData) : Bool :=
  d.clickIncLow < d.clickIncMid && d.clickIncMid < d.clickIncHigh

/-- R82: step index plus bank offset must stay within [0, 127]. DEDUCED as a constraint on the parameter
(assumption log 4). -/
def offsetsInRange (d : ConfigData) : Bool :=
  (List.finRange 4).all fun b => 31 + d.bankOffsets[b] ≤ 127

/-- R33: the step length is positive. DEDUCED as a constraint on STEP_LENGTH_RESET (assumption log 4). -/
def stepLengthPositive (d : ConfigData) : Bool := 0 < d.stepLengthReset

/-- What a model checks before it accepts a configuration (R9, with R8's order of the click pitches, R82's range
and R33's positive step length). -/
def valid (d : ConfigData) : Bool :=
  d.lengthsBounded && d.tablesLongEnough && d.clickTableNonempty && d.noiseTableNonempty && d.routingLegal &&
    d.clickPitchesOrdered && d.offsetsInRange && d.stepLengthPositive

/-- Some configuration meets every constraint. It only shows that accepted configurations exist: no definition of
the machine reads it and no claim may rest on it. -/
def witness : ConfigData where
  len := Vector.replicate 6 0
  tables := [[127]]
  tableOfVoice := Vector.replicate 6 0
  voiceInc := Vector.replicate 4 0
  clickTable := [127]
  clickIncLow := 1
  clickIncMid := 2
  clickIncHigh := 3
  noiseTable := [127]

end ConfigData

/-- An accepted configuration: data together with the check of R9. One that breaks a constraint cannot be built, so
the machine never runs with one (R9: "A configuration outside these constraints is refused"). -/
structure Config extends ConfigData where
  ok : toConfigData.valid = true
  deriving DecidableEq, Repr

/-- Why a configuration is refused (R9). -/
inductive ConfigError
  | lengthTooLarge | tableTooShort | clickTableEmpty | noiseTableEmpty | routingIllegal | clickPitchOrder
  | bankOffsetTooLarge | stepLengthZero
  deriving DecidableEq, Repr

/-- R9: accept a configuration, or refuse it naming the first constraint it breaks. -/
def Config.accept (d : ConfigData) : Except ConfigError Config :=
  if h : d.valid = true then .ok { toConfigData := d, ok := h }
  else if !d.lengthsBounded then .error .lengthTooLarge
  else if !d.tablesLongEnough then .error .tableTooShort
  else if !d.clickTableNonempty then .error .clickTableEmpty
  else if !d.noiseTableNonempty then .error .noiseTableEmpty
  else if !d.routingLegal then .error .routingIllegal
  else if !d.clickPitchesOrdered then .error .clickPitchOrder
  else if !d.offsetsInRange then .error .bankOffsetTooLarge
  else .error .stepLengthZero

/-- A box around the configuration the block was built with. Its default only tells Lean that the type is not empty
(see `ConfigData.witness`). -/
structure InstalledConfig where
  cfg : Config := { toConfigData := ConfigData.witness, ok := by decide }
  deriving Inhabited

/-- The configuration the block was built with. It has no body: no proof can see a value of it, only that it is an
accepted one (R8: "no claim may depend on a particular value unless it names it"; assumption log 2). -/
opaque Config.built : InstalledConfig

/-- The configuration of the reset state: any accepted one, fixed for the whole run (R303). -/
def Config.installed : Config := Config.built.cfg

end Sys2Proof
end

