-- ==== Sys2Proof/Machine/State.lean ====
section
/-! DEFINITION. The state of the block (`spec/10_state.md`), grouped by writer as R57 gives it.

`tick` holds the fields only TICK writes, `host` the fields only host commands write, `latch` the two pulse latches
that the host sets and TICK clears, `mem` the sequencer storage that only host commands write. Three fields are not
in R57: `cfg` is the configuration (R8), which is no state and never changes; `pending` is the model's own, the
operations still to be applied (R31; assumption log 1); `emitted` is the output stream of `emit` (R11, R50, R212). -/

namespace Sys2Proof.Machine

/-- One phase-accumulator voice (R45). Its increment is held apart, see `State.inc`. -/
structure Voice where
  /-- `S.acc[v]` (R45). -/
  acc : Word
  /-- `S.idx[v]` (R45). -/
  idx : Half
  /-- `S.active[v]` (R45). -/
  active : Bool
  deriving DecidableEq, Repr

/-- The fields written only by TICK (R57). -/
structure TickRegs where
  /-- `S.tickCounter` (R32). -/
  tickCounter : Word
  /-- `S.lastStepTick` (R35). -/
  lastStepTick : Word
  /-- `S.stepIndex` (R36). -/
  stepIndex : StepNo
  /-- `S.prevStepIndex` (R36). -/
  prevStepIndex : StepNo
  /-- `S.prevPlay` (R38). -/
  prevPlay : Bool
  /-- `S.acc[v]`, `S.idx[v]`, `S.active[v]` for v in 0..5 (R45). -/
  voices : Vector Voice 6
  /-- `S.inc[4]`, `S.inc[5]`; the other four are hardwired to the configuration (R46). -/
  pitchedInc : Vector Half 2
  /-- `S.clickAcc` (R47). -/
  clickAcc : Word
  /-- `S.clickInc` (R47). -/
  clickInc : Half
  /-- `S.clickAmp` (R48). -/
  clickAmp : BitVec 7
  /-- `S.clickDiv` (R48). -/
  clickDiv : BitVec 3
  /-- `S.noiseAcc` (R49). -/
  noiseAcc : Word
  /-- `S.sample` (R50). -/
  sample : Byte
  deriving DecidableEq, Repr

/-- The fields written only by host commands (R57). -/
structure HostRegs where
  /-- `S.stepLength` (R33). -/
  stepLength : Word
  /-- `S.tapHist[0..1]` (R34). -/
  tapHist : Vector Word 2
  /-- `S.tapSlot` (R34). -/
  tapSlot : BitVec 1
  /-- `S.tapCount` (R34). -/
  tapCount : BitVec 2
  /-- `S.prevTapTick` (R34). -/
  prevTapTick : Word
  /-- `S.play` (R39). -/
  play : Bool
  /-- `S.record` (R40). -/
  record : Bool
  /-- `S.reverse` (R41). -/
  reverse : Bool
  /-- `S.mixBlend` (R41). -/
  mixBlend : Bool
  /-- `S.clickEn` (R41). -/
  clickEn : Bool
  /-- `S.extTempo` (R41). -/
  extTempo : Bool
  /-- `S.tapGate` (R41). -/
  tapGate : Bool
  /-- `S.eraseHold` (R41). -/
  eraseHold : Bool
  /-- `S.bank` (R42). -/
  bank : BitVec 2
  /-- `S.livePitch[0..1]` (R43). -/
  livePitch : Vector Half 2
  /-- `S.noiseRate` (R43). -/
  noiseRate : Half
  /-- `S.eraseCount` (R51). -/
  eraseCount : BitVec 10
  /-- `S.eraseBlocked` (R51). -/
  eraseBlocked : Bool
  /-- `S.rdata` (R53). -/
  rdata : Word
  /-- `S.cmdErr` (R53). -/
  cmdErr : Bool
  deriving DecidableEq, Repr

/-- The pulse latches, set by the host and cleared by TICK (R37, R44). -/
structure Latches where
  /-- `S.liveLatch[0..3]` (R44). -/
  live : Vector Bool 4
  /-- `S.stepLatch` (R37). -/
  step : Bool
  deriving DecidableEq, Repr

/-- Slot storage of width `w`: pairs of a slot key and its value, keys strictly rising and no value 0. A slot that is
not listed reads 0, its reset contents (R54). -/
abbrev Store (w : Nat) := List (Nat × BitVec w)

/-- The two storage spaces of R80: TRIG, one bit a slot, and PITCH, 16 bits a slot. -/
structure Memory where
  trig : Store 1
  pitch : Store 16
  deriving DecidableEq, Repr

/-- The whole state. -/
structure State where
  cfg : Config
  tick : TickRegs
  host : HostRegs
  latch : Latches
  mem : Memory
  pending : List Word
  emitted : List Byte
  deriving DecidableEq, Repr

/-- Why a step can stop with a fault: for no reason. The block "raises no exception, trap or fault" and every
operation completes (R280), so this type has no constructor. -/
inductive Fault
  deriving DecidableEq, Repr

/-- Why a step can be refused. -/
inductive Refusal
  /-- An instruction that has no meaning in the model, by its mnemonic. Raised by no arm of `exec`: every row of the
  opcode table has its meaning. It would be safe. -/
  | notModelled (mnemonic : String)
  deriving DecidableEq, Repr

/-- An idle voice (R45 reset values; also what a voice is left as when it ends, R183). -/
def Voice.idle : Voice := { acc := 0, idx := 0, active := false }

/-- Power-on reset under a configuration (R57, R300). -/
def State.resetWith (cfg : Config) : State where
  cfg := cfg
  tick := {
    tickCounter := 0
    lastStepTick := 0
    stepIndex := 31
    prevStepIndex := 31
    prevPlay := false
    voices := Vector.replicate 6 Voice.idle
    pitchedInc := Vector.replicate 2 0
    clickAcc := 0
    clickInc := cfg.clickIncLow
    clickAmp := 0
    clickDiv := 0
    noiseAcc := 0
    sample := 127 }
  host := {
    stepLength := cfg.stepLengthReset
    tapHist := Vector.replicate 2 0
    tapSlot := 0
    tapCount := 0
    prevTapTick := 0
    play := false
    record := false
    reverse := false
    mixBlend := false
    clickEn := false
    extTempo := false
    tapGate := false
    eraseHold := false
    bank := 0
    livePitch := Vector.replicate 2 0
    noiseRate := 0
    eraseCount := 0
    eraseBlocked := false
    rdata := 0
    cmdErr := false }
  latch := { live := Vector.replicate 4 false, step := false }
  mem := { trig := [], pitch := [] }
  pending := []
  emitted := []

/-- The block right after power-on reset (R300), under the configuration it was built with. -/
def State.reset : State := State.resetWith Config.installed

end Sys2Proof.Machine
end

