-- ==== Sys2Proof/Machine/Ops.lean ====
section
/-! DEFINITION. The shared operations: sequencer storage (`spec/20_memory.md`), the arithmetic notation of
`spec/00_scope.md` R10, emission, and the command error.

The block has no exceptions, so there is none to take or to return from (R280, R283). The one error report, the
sticky cmdErr bit of R281, is `commandError`, the single operation every reserved encoding goes through. -/

namespace Sys2Proof.Machine

/-! ## Slot storage -/

/-- Read one slot; a slot that is not listed reads 0 (R54). -/
def Store.read {w : Nat} : Store w → Nat → BitVec w
  | [], _ => 0
  | (k', v) :: rest, k => if k' = k then v else Store.read rest k

/-- The store without slot `k`. -/
def Store.erase {w : Nat} (st : Store w) (k : Nat) : Store w := st.filter fun c => c.1 != k

/-- The store with a new entry put before the first one with a larger key. -/
def Store.insert {w : Nat} (k : Nat) (v : BitVec w) : Store w → Store w
  | [] => [(k, v)]
  | c :: rest => if k < c.1 then (k, v) :: c :: rest else c :: Store.insert k v rest

/-- Write one slot, keeping the canonical form: writing 0 removes the entry. -/
def Store.write {w : Nat} (st : Store w) (k : Nat) (v : BitVec w) : Store w :=
  if v = 0 then st.erase k else (st.erase k).insert k v

/-- Write 0 to every slot of a list. -/
def Store.clear {w : Nat} (st : Store w) (ks : List Nat) : Store w := ks.foldl (fun st k => st.write k 0) st

/-- The canonical form: keys strictly rising and below `n`, no value 0. -/
def Store.wf {w : Nat} (n : Nat) (st : Store w) : Bool :=
  decide (st.Pairwise fun c d => c.1 < d.1) && st.all fun c => c.1 < n && c.2 != 0

/-- The key of slot `a` of track (or melodic index) `row`: 128 slots a row (R80). -/
def slotKey (row : Nat) (a : Slot) : Nat := 128 * row + a.toNat

/-- `MemRead(TRIG, (t, a), 1)` (R80). -/
def Memory.readTrig (m : Memory) (t : Track) (a : Slot) : BitVec 1 := m.trig.read (slotKey t.val a)

/-- `MemRead(PITCH, (m, a), 16)` (R80). -/
def Memory.readPitch (m : Memory) (i : Melodic) (a : Slot) : Half := m.pitch.read (slotKey i.val a)

/-- `MemWrite(TRIG, (t, a), 1, b)` (R80). -/
def Memory.writeTrig (m : Memory) (t : Track) (a : Slot) (b : BitVec 1) : Memory :=
  { m with trig := m.trig.write (slotKey t.val a) b }

/-- `MemWrite(PITCH, (m, a), 16, p)` (R80). -/
def Memory.writePitch (m : Memory) (i : Melodic) (a : Slot) (p : Half) : Memory :=
  { m with pitch := m.pitch.write (slotKey i.val a) p }

/-- Write 0 to the listed slots of all four tracks, in both spaces (R236). -/
def Memory.clearSlots (m : Memory) (slots : List Slot) : Memory where
  trig := m.trig.clear ((List.range 4).flatMap fun t => slots.map (slotKey t))
  pitch := m.pitch.clear ((List.range 2).flatMap fun i => slots.map (slotKey i))

/-- Both spaces are in canonical form: TRIG has 4 × 128 slots, PITCH 2 × 128 (R80). -/
def Memory.wf (m : Memory) : Bool := m.trig.wf 512 && m.pitch.wf 256

/-! ## Arithmetic notation -/

/-- `a >>a k`, the arithmetic right shift of R10: floor (a / 2^k). -/
def asr (a : Int) (k : Nat) : Int := a / (2 ^ k : Int)

/-- `a | b` on signed values: the OR of their 16-bit two's-complement patterns, read back signed (R10). -/
def or16 (a b : Int) : Int := (BitVec.ofInt 16 a ||| BitVec.ofInt 16 b).toInt

/-- A table byte recentred to a signed sample (R185, R203, R206). -/
def recentre (b : Byte) : Int := (b.toNat : Int) - centre

/-- `max(1, v)` on an unsigned word (R141, R145). -/
def atLeastOne (v : Word) : Word := if v = 0 then 1 else v

/-! ## Emission and the command error -/

/-- `emit(b)`: append byte b to the output sample stream (R11, R212). -/
def State.emit (s : State) (b : Byte) : State := { s with emitted := s.emitted ++ [b] }

/-- A command error: set the sticky cmdErr bit and change nothing else (R110, R281, R283). -/
def commandError (s : State) : State := { s with host := { s.host with cmdErr := true } }

/-- A reserved read command: cmdErr is set and rdata becomes 0 (R110 c and d). -/
def rejectRead (s : State) : State := commandError { s with host := { s.host with rdata := 0 } }

end Sys2Proof.Machine
end

