-- ==== Sys2Proof/Machine/Operands.lean ====
section
/-! DEFINITION. What the operations read as operands: bank offsets and slot addresses, voice increments, and the
sample tables. -/

namespace Sys2Proof.Machine

/-- The sequencer slot address of a step: `a = s + BANK_OFFSETS[S.bank]` (R82). -/
def State.slotOf (s : State) (step : StepNo) : Slot :=
  BitVec.ofNat 7 (step.toNat + s.cfg.bankOffsets[s.host.bank.toNat])

/-- The 32 slots of the selected bank (R83). -/
def State.bankSlots (s : State) : List Slot := (List.range 32).map fun i => s.slotOf (BitVec.ofNat 5 i)

/-- `S.inc[v]`: hardwired to VOICE_INC[v] for the percussive voices, stored for V4 and V5 (R46). -/
def State.inc (s : State) (v : VoiceNo) : Half :=
  if h : v.val < 4 then s.cfg.voiceInc[v.val] else s.tick.pitchedInc[v.val - 4]

/-- `TABLE[v][i]` (R81). R186 keeps every index the block computes inside the table. -/
def tableByte (cfg : Config) (v : VoiceNo) (i : Nat) : Byte := (cfg.table v).getD i 0

/-- `CLICK_TABLE[i]` (R81). -/
def clickByte (cfg : Config) (i : Nat) : Byte := cfg.clickTable.getD i 0

/-- `NOISE_TABLE[i]` (R81). -/
def noiseByte (cfg : Config) (i : Nat) : Byte := cfg.noiseTable.getD i 0

end Sys2Proof.Machine
end

