-- ==== Sys2Proof/Machine/Flags.lean ====
section
/-! DEFINITION. The status bits (`spec/10_state.md` R58: there are no condition codes or arithmetic flags): the mode
flags of R41, the derived erase-armed predicate of R52 and the packed views of R55 and R56. -/

namespace Sys2Proof.Machine

/-- `eraseArmed = record & eraseHold & ~eraseBlocked` (R52), a predicate and not a stored field. -/
def HostRegs.eraseArmed (h : HostRegs) : Bool := h.record && h.eraseHold && !h.eraseBlocked

/-- Release the erase hold: clear the hold, its counter and the block on a second erase (R237, R261). -/
def HostRegs.releaseHold (h : HostRegs) : HostRegs :=
  { h with eraseHold := false, eraseCount := 0, eraseBlocked := false }

/-- The mode flags as register MODE reads them (R55). -/
def HostRegs.modeBits (h : HostRegs) : BitVec 6 :=
  BitVec.ofBool h.eraseHold ++ BitVec.ofBool h.tapGate ++ BitVec.ofBool h.extTempo ++ BitVec.ofBool h.clickEn ++
    BitVec.ofBool h.mixBlend ++ BitVec.ofBool h.reverse

/-- The active bits of the six voices, bit v being voice V_v (R56). -/
def TickRegs.activeBits (r : TickRegs) : BitVec 6 :=
  BitVec.ofBool r.voices[5].active ++ BitVec.ofBool r.voices[4].active ++ BitVec.ofBool r.voices[3].active ++
    BitVec.ofBool r.voices[2].active ++ BitVec.ofBool r.voices[1].active ++ BitVec.ofBool r.voices[0].active

/-- The live-trigger latches, bit t being track T_t (R56). -/
def Latches.liveBits (l : Latches) : BitVec 4 :=
  BitVec.ofBool l.live[3] ++ BitVec.ofBool l.live[2] ++ BitVec.ofBool l.live[1] ++ BitVec.ofBool l.live[0]

/-- Register STATUS (R56), bit 31 first. -/
def State.statusWord (s : State) : Word :=
  BitVec.ofBool s.latch.step ++ s.latch.liveBits ++ BitVec.ofBool s.tick.prevPlay ++ s.host.tapSlot ++
    s.host.tapCount ++ s.tick.activeBits ++ s.host.bank ++ s.tick.prevStepIndex ++ s.tick.stepIndex ++
    BitVec.ofBool s.host.cmdErr ++ BitVec.ofBool s.host.eraseBlocked ++ BitVec.ofBool s.host.eraseArmed ++
    BitVec.ofBool s.host.record ++ BitVec.ofBool s.host.play

end Sys2Proof.Machine
end

