-- ==== Sys2Proof/Syntax.lean ====
section
/-! DEFINITION. The operations of the block: one constructor of `Instr` per row of `spec/opcode_table.json`
(`spec/30_encoding.md` R104), and the selectors their fields decode to.

The block has no instruction set of its own; its "instructions" are the TICK operation and the host command words
(R2, R104). -/

namespace Sys2Proof

/-- The flag identifiers of SETFLAG (R105); 6..15 are reserved (R110 b). -/
inductive FlagSel
  | reverse | mixBlend | clickEn | extTempo | tapGate | eraseHold
  | reserved (id : BitVec 4)
  deriving DecidableEq, Repr

/-- The register numbers of RDREG (R55); 28..31 are reserved (R110 c). -/
inductive RegSel
  | status | mode | tickCount | stepLength | lastStepTick | tapHist0 | tapHist1 | prevTapTick
  | livePitch0 | livePitch1 | noiseRate | click | eraseCount | sample | clickAcc | noiseAcc
  | vacc (v : VoiceNo) | vidx (v : VoiceNo)
  | reserved (r : BitVec 5)
  deriving DecidableEq, Repr

/-- The slots RDSEQ can name (R106): a TRIG slot, a PITCH slot, or the reserved form, the PITCH space of a
trigger-only track (R110 d). -/
inductive SeqSel
  | trig (t : Track) (a : Slot)
  | pitch (m : Melodic) (a : Slot)
  | reserved (t : BitVec 2) (a : Slot)
  deriving DecidableEq, Repr

/-- One operation of the block (R104). -/
inductive Instr
  /-- OP 0x0 (R260). -/
  | nop
  /-- OP 0x1 (R120). -/
  | tick
  /-- OP 0x2 (R170). -/
  | trig (n : Track)
  /-- OP 0x3 (R190). -/
  | setpitch (m : Melodic) (val : Half)
  /-- OP 0x4 (R213). -/
  | setnoise (val : Half)
  /-- OP 0x5 (R261). -/
  | setflag (id : FlagSel) (b : Bool)
  /-- OP 0x6 (R140). -/
  | play (b : Bool)
  /-- OP 0x7 (R240). -/
  | rectoggle
  /-- OP 0x8 (R141). -/
  | tap
  /-- OP 0x9 (R172). -/
  | bank (n : BitVec 2)
  /-- OP 0xA (R147). -/
  | step
  /-- OP 0xB (R242). -/
  | loopiter
  /-- OP 0xC (R145). -/
  | settempo (val : BitVec 28)
  /-- OP 0xD (R263). -/
  | rdreg (r : RegSel)
  /-- OP 0xE (R265). -/
  | rdseq (q : SeqSel)
  /-- OP 0xF (R266). -/
  | reservedF
  deriving DecidableEq, Repr

/-- The two agents of the block (R30). -/
inductive Agent
  | tickEngine | host
  deriving DecidableEq, Repr

/-- Which agent issues an operation: the timer issues TICK, the host every other word (R108, R287). -/
def Instr.agent : Instr → Agent
  | .tick => .tickEngine
  | .nop | .trig _ | .setpitch _ _ | .setnoise _ | .setflag _ _ | .play _ | .rectoggle | .tap | .bank _ | .step
  | .loopiter | .settempo _ | .rdreg _ | .rdseq _ | .reservedF => .host

/-- The opcode field of an operation's row (R104). -/
def Instr.opcode : Instr → BitVec 4
  | .nop => 0x0
  | .tick => 0x1
  | .trig _ => 0x2
  | .setpitch _ _ => 0x3
  | .setnoise _ => 0x4
  | .setflag _ _ => 0x5
  | .play _ => 0x6
  | .rectoggle => 0x7
  | .tap => 0x8
  | .bank _ => 0x9
  | .step => 0xA
  | .loopiter => 0xB
  | .settempo _ => 0xC
  | .rdreg _ => 0xD
  | .rdseq _ => 0xE
  | .reservedF => 0xF

/-- The reserved encodings of R110: OP 0xF, a reserved SETFLAG id, a reserved RDREG number, the reserved RDSEQ
form. -/
def Instr.isReserved : Instr → Bool
  | .reservedF => true
  | .setflag (.reserved _) _ => true
  | .rdreg (.reserved _) => true
  | .rdseq (.reserved _ _) => true
  | .nop | .tick | .trig _ | .setpitch _ _ | .setnoise _ | .setflag _ _ | .play _ | .rectoggle | .tap | .bank _
  | .step | .loopiter | .settempo _ | .rdreg _ | .rdseq _ => false

end Sys2Proof
end

