-- ==== Sys2Proof/Machine/Control.lean ====
section
/-! DEFINITION. NOP, SETFLAG, the register access RDREG and RDSEQ, and the reserved opcode 0xF
(`spec/46_control.md`). -/

namespace Sys2Proof.Machine

/-- NOP (R260). -/
def execNop (s : State) : Host.Outcome State Fault Refusal := .next s

/-- SETFLAG id, b: write one mode flag (R261). -/
def setFlag (id : FlagSel) (b : Bool) (s : State) : State :=
  match id with
  | .reverse => { s with host := { s.host with reverse := b } }
  | .mixBlend => { s with host := { s.host with mixBlend := b } }
  | .clickEn => { s with host := { s.host with clickEn := b } }
  | .extTempo => { s with host := { s.host with extTempo := b } }
  | .tapGate => { s with host := { s.host with tapGate := b } }
  | .eraseHold => { s with host := if b then { s.host with eraseHold := true } else s.host.releaseHold }
  | .reserved _ => commandError s

/-- SETFLAG id, b (R261). -/
def execSetflag (id : FlagSel) (b : Bool) (s : State) : Host.Outcome State Fault Refusal := .next (setFlag id b s)

/-- `RegView(r)`: each field at its bits, every other bit 0 (R55, R264). A reserved number has no view. -/
def State.regView (s : State) : RegSel → Word
  | .status => s.statusWord
  | .mode => 0#26 ++ s.host.modeBits
  | .tickCount => s.tick.tickCounter
  | .stepLength => s.host.stepLength
  | .lastStepTick => s.tick.lastStepTick
  | .tapHist0 => s.host.tapHist[0]
  | .tapHist1 => s.host.tapHist[1]
  | .prevTapTick => s.host.prevTapTick
  | .livePitch0 => 0#16 ++ s.host.livePitch[0]
  | .livePitch1 => 0#16 ++ s.host.livePitch[1]
  | .noiseRate => 0#16 ++ s.host.noiseRate
  | .click => s.tick.clickInc ++ 0#5 ++ s.tick.clickDiv ++ 0#1 ++ s.tick.clickAmp
  | .eraseCount => 0#22 ++ s.host.eraseCount
  | .sample => 0#24 ++ s.tick.sample
  | .clickAcc => s.tick.clickAcc
  | .noiseAcc => s.tick.noiseAcc
  | .vacc v => s.tick.voices[v].acc
  | .vidx v => s.inc v ++ s.tick.voices[v].idx
  | .reserved _ => 0

/-- Load the read-data register (R53). -/
def loadRdata (w : Word) (s : State) : State := { s with host := { s.host with rdata := w } }

/-- RDREG r: load a register view, or reject a reserved number (R263). -/
def readRegister (r : RegSel) (s : State) : State :=
  match r with
  | .reserved _ => rejectRead s
  | .status | .mode | .tickCount | .stepLength | .lastStepTick | .tapHist0 | .tapHist1 | .prevTapTick
  | .livePitch0 | .livePitch1 | .noiseRate | .click | .eraseCount | .sample | .clickAcc | .noiseAcc
  | .vacc _ | .vidx _ => loadRdata (s.regView r) s

/-- RDREG r (R263). -/
def execRdreg (r : RegSel) (s : State) : Host.Outcome State Fault Refusal := .next (readRegister r s)

/-- RDSEQ sp, t, a: load one slot, zero-extended, or reject the reserved form (R265). -/
def readSlot (q : SeqSel) (s : State) : State :=
  match q with
  | .trig t a => loadRdata ((s.mem.readTrig t a).setWidth 32) s
  | .pitch m a => loadRdata ((s.mem.readPitch m a).setWidth 32) s
  | .reserved _ _ => rejectRead s

/-- RDSEQ sp, t, a (R265). -/
def execRdseq (q : SeqSel) (s : State) : Host.Outcome State Fault Refusal := .next (readSlot q s)

/-- The reserved opcode 0xF (R266). -/
def execReservedF (s : State) : Host.Outcome State Fault Refusal := .next (commandError s)

end Sys2Proof.Machine
end

