-- ==== Sys2Proof/Machine/TimeBase.lean ====
section
/-! DEFINITION. The time base, the click envelope and the commands PLAY, TAP, SETTEMPO, STEP
(`spec/41_timebase.md`). -/

namespace Sys2Proof.Machine

/-! ## TICK stage: tick counter and step advance -/

/-- The first action of every TICK (R130): the counter wraps modulo 2^32. -/
def advanceCounter (s : State) : State :=
  { s with tick := { s.tick with tickCounter := s.tick.tickCounter + 1 } }

/-- `(S.tickCounter - S.lastStepTick) mod 2^32`, unsigned (R132, R231). -/
def State.elapsed (s : State) : Word := s.tick.tickCounter - s.tick.lastStepTick

/-- Advance the step by one and remember the tick of it (R132, R134). -/
def advanceStep (s : State) : State :=
  { s with tick := { s.tick with stepIndex := s.tick.stepIndex + 1, lastStepTick := s.tick.tickCounter } }

/-- The internal tempo branch: a strict comparison (R132). -/
def internalTempo (s : State) : State := if s.host.stepLength < s.elapsed then advanceStep s else s

/-- The external tempo branch: one step for a set step latch (R134). -/
def externalTempo (s : State) : State := if s.latch.step then advanceStep s else s

/-- The stopped branch (R133). -/
def stoppedBranch (s : State) : State :=
  { s with tick := { s.tick with stepIndex := 31, lastStepTick := 0 } }

/-- The time-base stage takes exactly one of three branches (R131). -/
def timeBase (s : State) : State :=
  if s.host.play then if s.host.extTempo then externalTempo s else internalTempo s else stoppedBranch s

/-- The local `stopReset` of the time base: 1 on the first TICK after the transport stopped, under
STOP_RESETS_VOICES (R133). -/
def State.stopReset (s : State) : Bool := !s.host.play && s.tick.prevPlay && s.cfg.stopResetsVoices

/-- The local `edge` after the time base: `S.stepIndex != S.prevStepIndex` (R135). -/
def State.stepEdge (s : State) : Bool := s.tick.stepIndex != s.tick.prevStepIndex

/-! ## TICK stage: click scheduling and envelope -/

/-- The click increment of a quarter step (R137). -/
def clickPitch (cfg : Config) (step : StepNo) : Half :=
  if step = 0 then cfg.clickIncLow else if step.toNat % 8 = 0 then cfg.clickIncMid else cfg.clickIncHigh

/-- One decrement of the amplitude, clamped to 0 below the floor (R138). -/
def decayedAmp (amp : BitVec 7) : BitVec 7 :=
  let lowered := if 0 < amp then amp - 1 else amp
  if lowered < clickFloor then 0 else lowered

/-- ClickDecay: the prescaler lets one decrement through every 5 ticks (R138). -/
def clickDecay (s : State) : State :=
  if s.tick.clickDiv + 1 = clickDecayPeriod then
    { s with tick := { s.tick with clickDiv := 0, clickAmp := decayedAmp s.tick.clickAmp } }
  else { s with tick := { s.tick with clickDiv := s.tick.clickDiv + 1 } }

/-- A quarter-step edge retriggers the click (R137). -/
def clickRetrigger (s : State) : State :=
  { s with tick := { s.tick with clickInc := clickPitch s.cfg s.tick.stepIndex, clickAmp := clickAmpMax, clickDiv := 0 } }

/-- Click scheduling (R137). -/
def clickEnvelope (edge : Bool) (s : State) : State :=
  if edge && s.tick.stepIndex.toNat % 4 == 0 then clickRetrigger s else clickDecay s

/-! ## Host commands -/

/-- PLAY b (R140): stopping forces record off; either value clears the erase counter. -/
def setTransport (b : Bool) (s : State) : State :=
  { s with host := { s.host with play := b, record := b && s.host.record, eraseCount := 0 } }

/-- PLAY b (R140). -/
def execPlay (b : Bool) (s : State) : Host.Outcome State Fault Refusal := .next (setTransport b s)

/-- An accepted tap writes the rescaled interval since the last one into the slot the next tap writes (R141). -/
def recordTap (s : State) : State :=
  { s with host := { s.host with
      tapHist := s.host.tapHist.set s.host.tapSlot.toNat ((s.tick.tickCounter - s.host.prevTapTick) >>> tapShift)
      tapSlot := 1 - s.host.tapSlot
      tapCount := if s.host.tapCount.toNat + 1 < 2 then s.host.tapCount + 1 else 2
      prevTapTick := s.tick.tickCounter } }

/-- The mean of the two tap slots, halved downwards (R141). -/
def HostRegs.tapMean (h : HostRegs) : Word := BitVec.ofNat 32 ((h.tapHist[0].toNat + h.tapHist[1].toNat) / 2)

/-- Two recorded intervals set the step length, at least 1 (R141). -/
def applyTaps (s : State) : State :=
  if s.host.tapCount = 2 then { s with host := { s.host with stepLength := atLeastOne s.host.tapMean } } else s

/-- TAP: no effect while the tap gate is closed (R141). -/
def tapEvent (s : State) : State := if s.host.tapGate then applyTaps (recordTap s) else s

/-- TAP (R141). -/
def execTap (s : State) : Host.Outcome State Fault Refusal := .next (tapEvent s)

/-- SETTEMPO val (R145): `S.stepLength <- max(1, zext_32(val))`. -/
def execSettempo (val : BitVec 28) (s : State) : Host.Outcome State Fault Refusal :=
  .next { s with host := { s.host with stepLength := atLeastOne (val.setWidth 32) } }

/-- STEP (R147): `S.stepLatch <- 1`. -/
def execStep (s : State) : Host.Outcome State Fault Refusal :=
  .next { s with latch := { s.latch with step := true } }

end Sys2Proof.Machine
end

