-- ==== Sys2Proof/Machine/Recorder.lean ====
section
/-! DEFINITION. The recorder: quantized write index, recorder write, bank erase, and the commands RECTOGGLE and
LOOPITER (`spec/45_recorder.md`). -/

namespace Sys2Proof.Machine

/-- `(3 * S.stepLength) >> 2`, with no wrap (R231). -/
def HostRegs.quantThreshold (h : HostRegs) : Nat := 3 * h.stepLength.toNat / 4

/-- WriteIndex: the current step, or the next one from 3/4 of the step length on (R231; `spec/90_conflicts.md` C5). -/
def State.writeIndex (s : State) : StepNo :=
  if s.host.quantThreshold ≤ s.elapsed.toNat then s.tick.stepIndex + 1 else s.tick.stepIndex

/-- The melodic index of a track, if it is melodic: T2 is 0, T3 is 1 (R43). -/
def melodicOf (n : Track) : Option Melodic :=
  if n.val = 2 then some 0 else if n.val = 3 then some 1 else none

/-- RecordWrite(n): set the trigger slot and, for a melodic track, store the live pitch (R232). -/
def recordWrite (n : Track) (s : State) : State :=
  let a := s.slotOf s.writeIndex
  let m := s.mem.writeTrig n a 1
  { s with mem := match melodicOf n with
      | some i => m.writePitch i a s.host.livePitch[i]
      | none => m }

/-- Erase(): clear the 32 slots of the active bank in every track, both spaces, and block a second erase of the same
hold (R236). -/
def eraseBank (s : State) : State :=
  { s with
    mem := s.mem.clearSlots s.bankSlots
    host := { s.host with eraseCount := 0, eraseBlocked := true, play := true } }

/-- RECTOGGLE (R240): entering record starts the transport, leaving it does not stop it. -/
def toggleRecord (s : State) : State :=
  { s with host := { s.host with record := !s.host.record, play := s.host.play || !s.host.record, eraseCount := 0 } }

/-- RECTOGGLE (R240). -/
def execRectoggle (s : State) : Host.Outcome State Fault Refusal := .next (toggleRecord s)

/-- The erase counter with one more iteration counted (R242). -/
def countHold (s : State) : State :=
  { s with host := { s.host with eraseCount := s.host.eraseCount + 1 } }

/-- One loop iteration: count while the erase is armed, erase at the threshold, else clear the count (R235, R242). -/
def loopIteration (s : State) : State :=
  if s.host.eraseArmed then
    if (countHold s).host.eraseCount = eraseThreshold then eraseBank (countHold s) else countHold s
  else { s with host := { s.host with eraseCount := 0 } }

/-- LOOPITER (R242). -/
def execLoopiter (s : State) : Host.Outcome State Fault Refusal := .next (loopIteration s)

end Sys2Proof.Machine
end

