-- ==== Sys2Proof/Machine/Sequencer.lean ====
section
/-! DEFINITION. The step sequencer, the trigger multiplexer, and the commands TRIG and BANK
(`spec/42_sequencer.md`). -/

namespace Sys2Proof.Machine

/-! ## TICK stage -/

/-- The slot the playhead is on: `a = S.stepIndex + off` (R160). -/
def State.playSlot (s : State) : Slot := s.slotOf s.tick.stepIndex

/-- `seqT[t]`: the stored trigger, raised on a step edge of the playing transport (R161). -/
def State.seqTrig (s : State) (edge : Bool) (t : Track) : Bool :=
  edge && s.host.play && s.mem.readTrig t s.playSlot == 1

/-- `liveT[t]`: the live latch, on every TICK (R162). -/
def State.liveTrig (s : State) (t : Track) : Bool := s.latch.live[t]

/-- `fire[t]`: sequenced OR live (R163). -/
def State.fire (s : State) (edge : Bool) (t : Track) : Bool := s.seqTrig edge t || s.liveTrig t

/-- `vt[v]`: some track routed to voice v fires (R164). -/
def State.voiceTrig (s : State) (edge : Bool) (v : VoiceNo) : Bool :=
  (List.finRange 4).any fun t => s.cfg.trackVoices[t].contains v && s.fire edge t

/-- The track of a melodic index (R43). -/
def melodicTrack (m : Melodic) : Track := if m.val = 0 then 2 else 3

/-- The increment of the pitched voice V_(4+m) after the sequencer stage: the live pitch, else the stored pitch, else
unchanged (R165). -/
def State.nextPitch (s : State) (edge : Bool) (m : Melodic) : Half :=
  if s.liveTrig (melodicTrack m) then s.host.livePitch[m]
  else if s.seqTrig edge (melodicTrack m) then s.mem.readPitch m s.playSlot
  else s.tick.pitchedInc[m]

/-- The sequencer stage's only writes: the increments of V4 and V5 (R165, R166). -/
def loadPitches (edge : Bool) (s : State) : State :=
  { s with tick := { s.tick with pitchedInc := Vector.ofFn fun m => s.nextPitch edge m } }

/-! ## Host commands -/

/-- Set the live latch of track n (R170). -/
def setLive (n : Track) (s : State) : State :=
  { s with latch := { s.latch with live := s.latch.live.set n true } }

/-- TRIG n: a live trigger, recorded while record is on (R170). -/
def liveTrigger (n : Track) (s : State) : State :=
  if s.host.record then recordWrite n (setLive n s) else setLive n s

/-- TRIG n (R170). -/
def execTrig (n : Track) (s : State) : Host.Outcome State Fault Refusal := .next (liveTrigger n s)

/-- BANK n (R172). -/
def execBank (n : BitVec 2) (s : State) : Host.Outcome State Fault Refusal :=
  .next { s with host := { s.host with bank := n } }

end Sys2Proof.Machine
end

