-- ==== Sys2Proof/Machine/Voices.lean ====
section
/-! DEFINITION. The voice playback engine and the command SETPITCH (`spec/43_voices.md`). -/

namespace Sys2Proof.Machine

/-! ## TICK stage -/

/-- A voice right after its trigger (R182). -/
def Voice.started : Voice := { acc := 0, idx := 0, active := true }

/-- One advance of a running voice; past the end of its table it ends (R183). -/
def Voice.advance (inc : Half) (len : Nat) (v : Voice) : Voice :=
  let acc := v.acc + inc.setWidth 32
  let idx : Half := (acc >>> fracBits).setWidth 16
  if len < idx.toNat then Voice.idle else { acc := acc, idx := idx, active := v.active }

/-- One TICK of a voice: the stop reset, then the trigger or the advance (R180 to R183). An inactive voice that is
not triggered does nothing. -/
def Voice.next (stop trig : Bool) (inc : Half) (len : Nat) (v : Voice) : Voice :=
  let v := if stop then Voice.idle else v
  if trig then Voice.started else if v.active then v.advance inc len else v

/-- The voice stage (R180). -/
def voiceStage (edge stop : Bool) (s : State) : State :=
  { s with tick := { s.tick with
      voices := Vector.ofFn fun v => (s.tick.voices[v]).next stop (s.voiceTrig edge v) (s.inc v) s.cfg.len[v] } }

/-- The read address of a voice: mirrored for the percussive voices in reverse mode (R184). -/
def readAddr (reverse : Bool) (v : VoiceNo) (len idx : Nat) : Nat :=
  if reverse && decide (v.val < 4) then len - idx else idx

/-- `s[v]`: the recentred table byte of an active voice, 0 for an inactive one (R185). -/
def State.voiceSample (s : State) (v : VoiceNo) : Int :=
  if s.tick.voices[v].active then
    recentre (tableByte s.cfg v (readAddr s.host.reverse v s.cfg.len[v] s.tick.voices[v].idx.toNat))
  else 0

/-! ## Host command -/

/-- SETPITCH m, val (R190). -/
def execSetpitch (m : Melodic) (val : Half) (s : State) : Host.Outcome State Fault Refusal :=
  .next { s with host := { s.host with livePitch := s.host.livePitch.set m val } }

end Sys2Proof.Machine
end

