-- ==== Sys2Proof/Machine/Mixer.lean ====
section
/-! DEFINITION. The click oscillator, the noise reader, the mixer and the fold-back output, and the command SETNOISE
(`spec/44_mixer.md`). -/

namespace Sys2Proof.Machine

/-! ## TICK stage -/

/-- Both free-running accumulators advance on every TICK (R201, R204). -/
def advanceOscillators (s : State) : State :=
  { s with tick := { s.tick with
      clickAcc := s.tick.clickAcc + s.tick.clickInc.setWidth 32
      noiseAcc := s.tick.noiseAcc + s.host.noiseRate.setWidth 32 } }

/-- The click gate, which the noise shares (R202, R205). -/
def State.clickGate (s : State) : Bool := s.host.play && s.host.clickEn && decide (clickFloor ≤ s.tick.clickAmp)

/-- A recentred sample scaled by the click amplitude, 64 being unity (R203, R206). -/
def scaleByAmp (amp : BitVec 7) (x : Int) : Int := asr (x * amp.toNat) 6

/-- `ci`: the click table index (R203). -/
def State.clickIndex (s : State) : Nat := (s.tick.clickAcc >>> fracBits).toNat % s.cfg.clickTable.length

/-- `ni`: the noise table index (R206). -/
def State.noiseIndex (s : State) : Nat := (s.tick.noiseAcc >>> fracBits).toNat % s.cfg.noiseTable.length

/-- `clickS` (R203). -/
def State.clickSample (s : State) : Int :=
  if s.clickGate then scaleByAmp s.tick.clickAmp (recentre (clickByte s.cfg s.clickIndex)) else 0

/-- `noiseS` (R206). -/
def State.noiseSample (s : State) : Int :=
  if s.clickGate then scaleByAmp s.tick.clickAmp (recentre (noiseByte s.cfg s.noiseIndex)) else 0

/-- `sum6` (R207). -/
def State.voiceSum (s : State) : Int :=
  s.voiceSample 0 + s.voiceSample 1 + s.voiceSample 2 + s.voiceSample 3 + s.voiceSample 4 + s.voiceSample 5

/-- Direct mode (R208). -/
def mixDirect (sum6 clickS : Int) : Int := asr (sum6 + clickS) 1 + centre

/-- The bitwise blend of click and noise (R209). -/
def blendOf (shift : Nat) (clickS noiseS : Int) : Int := or16 (asr clickS shift) noiseS

/-- Blend mode (R209). -/
def mixBlended (shift : Nat) (sum6 clickS noiseS : Int) : Int := centre + sum6 + blendOf shift clickS noiseS

/-- The value before the fold, by mix mode (R208, R209). -/
def State.preFold (s : State) : Int :=
  if s.host.mixBlend then mixBlended s.cfg.blendClickShift s.voiceSum s.clickSample s.noiseSample
  else mixDirect s.voiceSum s.clickSample

/-- Fold-back saturation: both reflections once, the second on the result of the first (R210). -/
def foldBack (v : Int) : Int :=
  let w := if 255 < v then v - 2 * (v - 255) else v
  if w < 0 then w + 2 * (-w) else w

/-- The output byte: the low 8 bits of the folded value (R211). -/
def outByte (v : Int) : Byte := BitVec.ofInt 8 (foldBack v)

/-- Emission: `S.sample <- out; emit(out)` (R212). -/
def emitSample (s : State) : State :=
  { s with tick := { s.tick with sample := outByte s.preFold } }.emit (outByte s.preFold)

/-- The mixer stage (R200). -/
def mixerStage (s : State) : State := emitSample (advanceOscillators s)

/-! ## Host command -/

/-- SETNOISE val (R213). -/
def execSetnoise (val : Half) (s : State) : Host.Outcome State Fault Refusal :=
  .next { s with host := { s.host with noiseRate := val } }

end Sys2Proof.Machine
end

