-- ==== Sys2Proof/Machine/Tick.lean ====
section
/-! DEFINITION. The TICK operation (`spec/40_tick.md`). -/

namespace Sys2Proof.Machine

/-- Tick counter and time base, the first two stages of R120; the step edge of R135 is read off its result. -/
def tickTime (s : State) : State := timeBase (advanceCounter s)

/-- The stages up to the voices: time base, click envelope, sequencer, voices (R120). -/
def tickSound (s : State) : State :=
  let t := tickTime s
  voiceStage t.stepEdge s.stopReset (loadPitches t.stepEdge (clickEnvelope t.stepEdge t))

/-- End-of-tick bookkeeping (R123). -/
def endOfTick (s : State) : State :=
  { s with
    tick := { s.tick with prevStepIndex := s.tick.stepIndex, prevPlay := s.host.play }
    latch := { live := Vector.replicate 4 false, step := false } }

/-- One audio tick: the stages of R120 in order. -/
def tickState (s : State) : State := endOfTick (mixerStage (tickSound s))

/-- TICK (R120). -/
def execTick (s : State) : Host.Outcome State Fault Refusal := .next (tickState s)

end Sys2Proof.Machine
end

