-- ==== Sys2Proof/Machine/Dispatch.lean ====
section
/-! DEFINITION. The dispatcher: one arm per operation of the opcode table (`spec/30_encoding.md` R104). -/

namespace Sys2Proof.Machine

def exec (i : Instr) (s : State) : Host.Outcome State Fault Refusal :=
  match i with
  | .nop => Sys2Proof.Machine.execNop s
  | .tick => Sys2Proof.Machine.execTick s
  | .trig n => Sys2Proof.Machine.execTrig n s
  | .setpitch m val => Sys2Proof.Machine.execSetpitch m val s
  | .setnoise val => Sys2Proof.Machine.execSetnoise val s
  | .setflag id b => Sys2Proof.Machine.execSetflag id b s
  | .play b => Sys2Proof.Machine.execPlay b s
  | .rectoggle => Sys2Proof.Machine.execRectoggle s
  | .tap => Sys2Proof.Machine.execTap s
  | .bank n => Sys2Proof.Machine.execBank n s
  | .step => Sys2Proof.Machine.execStep s
  | .loopiter => Sys2Proof.Machine.execLoopiter s
  | .settempo val => Sys2Proof.Machine.execSettempo val s
  | .rdreg r => Sys2Proof.Machine.execRdreg r s
  | .rdseq q => Sys2Proof.Machine.execRdseq q s
  | .reservedF => Sys2Proof.Machine.execReservedF s

end Sys2Proof.Machine
end

