-- ==== Sys2Proof/WellFormed.lean ====
section
/-! DEFINITION. Well-formed operations: a selector written as reserved carries a number that IS reserved
(`spec/30_encoding.md` R105, R106, R110). Every other operand is well-formed by its type, whose width is its field's
(R101). -/

namespace Sys2Proof

/-- A reserved flag identifier is one of 6..15 (R105, R110 b). -/
def FlagSel.wf : FlagSel → Bool
  | .reserved id => 6 ≤ id.toNat
  | .reverse | .mixBlend | .clickEn | .extTempo | .tapGate | .eraseHold => true

/-- A reserved register number is one of 28..31 (R55, R110 c). -/
def RegSel.wf : RegSel → Bool
  | .reserved r => 28 ≤ r.toNat
  | .status | .mode | .tickCount | .stepLength | .lastStepTick | .tapHist0 | .tapHist1 | .prevTapTick
  | .livePitch0 | .livePitch1 | .noiseRate | .click | .eraseCount | .sample | .clickAcc | .noiseAcc
  | .vacc _ | .vidx _ => true

/-- The reserved RDSEQ form names a trigger-only track, T0 or T1 (R106, R110 d). -/
def SeqSel.wf : SeqSel → Bool
  | .reserved t _ => t.toNat < 2
  | .trig _ _ | .pitch _ _ => true

/-- Well-formed operations: the ones an encoding stands for. -/
def Instr.wf : Instr → Bool
  | .setflag id _ => id.wf
  | .rdreg r => r.wf
  | .rdseq q => q.wf
  | .nop | .tick | .trig _ | .setpitch _ _ | .setnoise _ | .play _ | .rectoggle | .tap | .bank _ | .step
  | .loopiter | .settempo _ | .reservedF => true

end Sys2Proof
end

