-- ==== Sys2Proof/Decode.lean ====
section
/-! DEFINITION. The decoder and the encoder of the 32-bit command words (`spec/30_encoding.md` R100 to R113).

Bits a row's format does not name are ignored by the decoder (R103) and written 0 by the encoder (R111). -/

namespace Sys2Proof

/-- The opcode field OP = w[31:28] (R100). -/
def opField (w : Word) : BitVec 4 := w.extractLsb' 28 4

/-- The flag an identifier selects (R105). -/
def decodeFlag (id : BitVec 4) : FlagSel :=
  match id.toNat with
  | 0 => .reverse
  | 1 => .mixBlend
  | 2 => .clickEn
  | 3 => .extTempo
  | 4 => .tapGate
  | 5 => .eraseHold
  | _ => .reserved id

/-- The register a number selects (R55). -/
def decodeReg (r : BitVec 5) : RegSel :=
  match r.toNat with
  | 0 => .status
  | 1 => .mode
  | 2 => .tickCount
  | 3 => .stepLength
  | 4 => .lastStepTick
  | 5 => .tapHist0
  | 6 => .tapHist1
  | 7 => .prevTapTick
  | 8 => .livePitch0
  | 9 => .livePitch1
  | 10 => .noiseRate
  | 11 => .click
  | 12 => .eraseCount
  | 13 => .sample
  | 14 => .clickAcc
  | 15 => .noiseAcc
  | 16 => .vacc 0
  | 17 => .vidx 0
  | 18 => .vacc 1
  | 19 => .vidx 1
  | 20 => .vacc 2
  | 21 => .vidx 2
  | 22 => .vacc 3
  | 23 => .vidx 3
  | 24 => .vacc 4
  | 25 => .vidx 4
  | 26 => .vacc 5
  | 27 => .vidx 5
  | _ => .reserved r

/-- The slot the fields sp, t, a of RDSEQ name (R106). -/
def decodeSeq (sp : BitVec 1) (t : BitVec 2) (a : Slot) : SeqSel :=
  if sp = 0 then .trig t.toFin a
  else
    match t.toNat with
    | 2 => .pitch 0 a
    | 3 => .pitch 1 a
    | _ => .reserved t a

/-- The decoder: every 32-bit word is exactly one row of R104 (R107). The last row is OP = 0xF. -/
def decode (w : Word) : Instr :=
  match (opField w).toNat with
  | 0 => .nop
  | 1 => .tick
  | 2 => .trig (w.extractLsb' 0 2).toFin
  | 3 => .setpitch (w.extractLsb' 16 1).toFin (w.extractLsb' 0 16)
  | 4 => .setnoise (w.extractLsb' 0 16)
  | 5 => .setflag (decodeFlag (w.extractLsb' 8 4)) (w.getLsbD 0)
  | 6 => .play (w.getLsbD 0)
  | 7 => .rectoggle
  | 8 => .tap
  | 9 => .bank (w.extractLsb' 0 2)
  | 10 => .step
  | 11 => .loopiter
  | 12 => .settempo (w.extractLsb' 0 28)
  | 13 => .rdreg (decodeReg (w.extractLsb' 0 5))
  | 14 => .rdseq (decodeSeq (w.extractLsb' 12 1) (w.extractLsb' 8 2) (w.extractLsb' 0 7))
  | _ => .reservedF

/-- The identifier of a flag (R105). -/
def encodeFlag : FlagSel → BitVec 4
  | .reverse => 0
  | .mixBlend => 1
  | .clickEn => 2
  | .extTempo => 3
  | .tapGate => 4
  | .eraseHold => 5
  | .reserved id => id

/-- The number of a register (R55): VACC_v is 16 + 2v, VIDX_v is 17 + 2v. -/
def encodeReg : RegSel → BitVec 5
  | .status => 0
  | .mode => 1
  | .tickCount => 2
  | .stepLength => 3
  | .lastStepTick => 4
  | .tapHist0 => 5
  | .tapHist1 => 6
  | .prevTapTick => 7
  | .livePitch0 => 8
  | .livePitch1 => 9
  | .noiseRate => 10
  | .click => 11
  | .eraseCount => 12
  | .sample => 13
  | .clickAcc => 14
  | .noiseAcc => 15
  | .vacc v => BitVec.ofNat 5 (16 + 2 * v.val)
  | .vidx v => BitVec.ofNat 5 (17 + 2 * v.val)
  | .reserved r => r

/-- The fields sp and t of an RDSEQ slot (R106): PITCH index m stands for track m + 2. -/
def encodeSeq : SeqSel → BitVec 1 × BitVec 2 × Slot
  | .trig t a => (0, BitVec.ofFin t, a)
  | .pitch m a => (1, BitVec.ofNat 2 (m.val + 2), a)
  | .reserved t a => (1, t, a)

/-- The encoder: each operand in its field of R101, every reserved bit 0 (R111). -/
def encode : Instr → Word
  | .nop => 0x0#4 ++ 0#28
  | .tick => 0x1#4 ++ 0#28
  | .trig n => 0x2#4 ++ 0#26 ++ (BitVec.ofFin n : BitVec 2)
  | .setpitch m val => 0x3#4 ++ 0#11 ++ (BitVec.ofFin m : BitVec 1) ++ val
  | .setnoise val => 0x4#4 ++ 0#12 ++ val
  | .setflag id b => 0x5#4 ++ 0#16 ++ encodeFlag id ++ 0#7 ++ BitVec.ofBool b
  | .play b => 0x6#4 ++ 0#27 ++ BitVec.ofBool b
  | .rectoggle => 0x7#4 ++ 0#28
  | .tap => 0x8#4 ++ 0#28
  | .bank n => 0x9#4 ++ 0#26 ++ n
  | .step => 0xA#4 ++ 0#28
  | .loopiter => 0xB#4 ++ 0#28
  | .settempo val => 0xC#4 ++ val
  | .rdreg r => 0xD#4 ++ 0#23 ++ encodeReg r
  | .rdseq q => 0xE#4 ++ 0#15 ++ (encodeSeq q).1 ++ 0#2 ++ (encodeSeq q).2.1 ++ 0#1 ++ (encodeSeq q).2.2
  | .reservedF => 0xF#4 ++ 0#28

/-- The bits of a word that its row's format names: OP and the fields (R101). The rest are reserved (R103). -/
def fieldMask (w : Word) : Word :=
  match (opField w).toNat with
  | 2 => 0xF0000003
  | 3 => 0xF001FFFF
  | 4 => 0xF000FFFF
  | 5 => 0xF0000F01
  | 6 => 0xF0000001
  | 9 => 0xF0000003
  | 12 => 0xFFFFFFFF
  | 13 => 0xF000001F
  | 14 => 0xF000137F
  | _ => 0xF0000000

/-- Why a byte stream does not decode. -/
inductive DecodeError
  /-- Fewer than the four bytes of a command word are left (R100). -/
  | truncated
  deriving DecidableEq, Repr

/-- A command word as a transport moves it: least significant byte first (R85). -/
def wordBytes (w : Word) : List Byte :=
  [w.extractLsb' 0 8, w.extractLsb' 8 8, w.extractLsb' 16 8, w.extractLsb' 24 8]

/-- Decode the first command word of a byte stream and return the rest of it (R85, R100). -/
def decodeBytes : List Byte → Except DecodeError (Instr × List Byte)
  | b0 :: b1 :: b2 :: b3 :: rest => .ok (decode (b3 ++ b2 ++ b1 ++ b0), rest)
  | _ => .error .truncated

/-- The command word whose low `nbits` bits are those of `w`, the bits above being 0; bit 0 of the opcode table is
bit 0 of the word (R10, R100). -/
def tableWord (nbits w : Nat) : Word := BitVec.ofNat 32 (w % 2 ^ nbits)

/-- What the decoder reads from a row of `spec/opcode_table.json`: the word laid out as bytes and decoded. None for a
row wider than one command word. -/
def decodeTableWord (nbits w : Nat) : Option Instr :=
  if nbits ≤ 32 then
    match decodeBytes (wordBytes (tableWord nbits w)) with
    | .ok (i, _) => some i
    | .error _ => none
  else none

end Sys2Proof
end

