-- ==== Sys2Proof/Machine/Fetch.lean ====
section
/-! DEFINITION. Taking the next operation word off the port. The block has no program counter and no fetch (R31): its
program is the sequence of operations applied to it, each consumed once, in the order they are applied (R31, R88).
That sequence stands in `State.pending`, TICK words of the timer and command words of the host in one merged order,
so that every interleaving of the two agents is some list (R30, R285; assumption log 1). -/

namespace Sys2Proof.Machine

/-- The next operation, decoded, with the state that has consumed its word; none when no operation is pending. -/
def takeOperation (s : State) : Option (Instr × State) :=
  match s.pending with
  | [] => none
  | w :: rest => some (decode w, { s with pending := rest })

/-- The state with a word put before the pending ones, so that it is the next operation applied. -/
def putFirst (w : Word) (s : State) : State := { s with pending := w :: s.pending }

end Sys2Proof.Machine
end

