-- ==== Sys2Proof/Machine/Step.lean ====
section
/-! DEFINITION. One step: apply the next pending operation (`spec/20_memory.md` R88, `spec/60_exceptions.md` R294). -/

namespace Sys2Proof.Machine

/-- One step of the block: the next pending operation, applied as one atomic transition (R88). With none pending the
block idles: every field keeps its value and no byte is emitted (R293; assumption log 1). -/
def step (s : State) : Host.Outcome State Fault Refusal :=
  match takeOperation s with
  | none => .next s
  | some (i, t) => exec i t

/-- The state whose very next step runs the operation with these bits. -/
def State.withFetchWord (s : State) (nbits w : Nat) : State := putFirst (tableWord nbits w) s

end Sys2Proof.Machine
end

