-- ==== Sys2Proof/Machine/Assembler.lean ====
section
/-! DEFINITION. The assembler of `spec/30_encoding.md` R111 and the pseudo-operations of R112. It is no part of the
block: it turns a line of source text into the command words a host or a timer would issue. -/

namespace Sys2Proof.Machine

/-- Why a line does not assemble (R111). -/
inductive AsmError
  /-- No operation of R111 or R112 has this mnemonic with this many operands. -/
  | unknownOperation
  /-- An operand is neither a number nor a name its place allows. -/
  | badOperand
  /-- An operand does not fit its field. -/
  | operandTooLarge
  deriving DecidableEq, Repr

/-! ## Lexing -/

/-- Blanks between the parts of a line. -/
def isBlank (c : Char) : Bool := c == ' ' || c == '\t'

/-- The text without blanks at either end. -/
def trimBlanks (cs : List Char) : List Char := ((cs.dropWhile isBlank).reverse.dropWhile isBlank).reverse

/-- Cut a text at every separator. -/
def cutAt (sep : Char) : List Char → List (List Char)
  | [] => [[]]
  | c :: cs =>
    match cutAt sep cs with
    | [] => [[c]]
    | part :: parts => if c == sep then [] :: part :: parts else (c :: part) :: parts

/-- The operands of a line: comma-separated, none in an empty text (R111). -/
def cutOperands (cs : List Char) : List (List Char) :=
  if trimBlanks cs = [] then [] else (cutAt ',' cs).map trimBlanks

/-- The value of a digit character in bases up to sixteen. -/
def digitValue (c : Char) : Option Nat :=
  if '0' ≤ c ∧ c ≤ '9' then some (c.toNat - 48)
  else if 'a' ≤ c ∧ c ≤ 'f' then some (c.toNat - 87)
  else if 'A' ≤ c ∧ c ≤ 'F' then some (c.toNat - 55)
  else none

/-- The number the digits stand for in a base, most significant first, after `acc`. -/
def digitsValue (base : Nat) : List Char → Nat → Option Nat
  | [], acc => some acc
  | c :: cs, acc =>
    match digitValue c with
    | some d => if d < base then digitsValue base cs (acc * base + d) else none
    | none => none

/-- A number: decimal, or hexadecimal after `0x` (R111). -/
def parseNumber : List Char → Option Nat
  | [] => none
  | ['0', 'x'] => none
  | '0' :: 'x' :: cs => digitsValue 16 cs 0
  | cs => digitsValue 10 cs 0

/-! ## Names of operands (R55, R105, R111) -/

/-- The names of the SETFLAG identifiers (R105, R111). -/
def flagNames : List (String × Nat) :=
  [("REVERSE", 0), ("MIX_BLEND", 1), ("CLICK_EN", 2), ("EXT_TEMPO", 3), ("TAP_GATE", 4), ("ERASE_HOLD", 5)]

/-- The register names (R55). -/
def registerNames : List (String × Nat) :=
  [("STATUS", 0), ("MODE", 1), ("TICK_COUNT", 2), ("STEP_LENGTH", 3), ("LAST_STEP_TICK", 4), ("TAP_HIST0", 5),
   ("TAP_HIST1", 6), ("PREV_TAP_TICK", 7), ("LIVE_PITCH0", 8), ("LIVE_PITCH1", 9), ("NOISE_RATE", 10), ("CLICK", 11),
   ("ERASE_COUNT", 12), ("SAMPLE", 13), ("CLICK_ACC", 14), ("NOISE_ACC", 15)] ++
  [("VACC_0", 16), ("VIDX_0", 17), ("VACC_1", 18), ("VIDX_1", 19), ("VACC_2", 20), ("VIDX_2", 21), ("VACC_3", 22),
   ("VIDX_3", 23), ("VACC_4", 24), ("VIDX_4", 25), ("VACC_5", 26), ("VIDX_5", 27)]

/-- The names of the RDSEQ spaces (R111). -/
def spaceNames : List (String × Nat) := [("TRIG", 0), ("PITCH", 1)]

/-- An operand's value: a number or one of the allowed names. -/
def operandValue (names : List (String × Nat)) (cs : List Char) : Except AsmError Nat :=
  match names.find? fun p => p.1.toList == cs with
  | some p => .ok p.2
  | none =>
    match parseNumber cs with
    | some n => .ok n
    | none => .error .badOperand

/-- An operand that must fit a field of `bits` bits (R111: otherwise "an assembly error"). -/
def fieldValue (bits : Nat) (names : List (String × Nat)) (cs : List Char) : Except AsmError (BitVec bits) := do
  let n ← operandValue names cs
  if n < 2 ^ bits then .ok (BitVec.ofNat bits n) else .error .operandTooLarge

/-- A one-bit operand as a truth value. -/
def bitValue (cs : List Char) : Except AsmError Bool := do
  let b ← fieldValue 1 [] cs
  return b == 1

/-! ## Operations -/

/-- The operations a mnemonic with its operands stands for: one of R111, or the expansion of a pseudo-operation of
R112. -/
def expandLine (mnemonic : String) (ops : List (List Char)) : Except AsmError (List Instr) :=
  match mnemonic, ops with
  | "NOP", [] => .ok [.nop]
  | "TICK", [] => .ok [.tick]
  | "TRIG", [n] => do return [.trig (← fieldValue 2 [] n).toFin]
  | "SETPITCH", [m, v] => do return [.setpitch (← fieldValue 1 [] m).toFin (← fieldValue 16 [] v)]
  | "SETNOISE", [v] => do return [.setnoise (← fieldValue 16 [] v)]
  | "SETFLAG", [id, b] => do return [.setflag (decodeFlag (← fieldValue 4 flagNames id)) (← bitValue b)]
  | "PLAY", [b] => do return [.play (← bitValue b)]
  | "RECTOGGLE", [] => .ok [.rectoggle]
  | "TAP", [] => .ok [.tap]
  | "BANK", [n] => do return [.bank (← fieldValue 2 [] n)]
  | "STEP", [] => .ok [.step]
  | "LOOPITER", [] => .ok [.loopiter]
  | "SETTEMPO", [v] => do return [.settempo (← fieldValue 28 [] v)]
  | "RDREG", [r] => do return [.rdreg (decodeReg (← fieldValue 5 registerNames r))]
  | "RDSEQ", [sp, t, a] => do
    return [.rdseq (decodeSeq (← fieldValue 1 spaceNames sp) (← fieldValue 2 [] t) (← fieldValue 7 [] a))]
  | "TICKS", [k] => do return List.replicate (← operandValue [] k) .tick
  | "LOOPITERS", [k] => do return List.replicate (← operandValue [] k) .loopiter
  | "START", [] => .ok [.play true]
  | "STOP", [] => .ok [.play false]
  | "REVERSE", [b] => do return [.setflag .reverse (← bitValue b)]
  | "BLEND", [b] => do return [.setflag .mixBlend (← bitValue b)]
  | "CLICK", [b] => do return [.setflag .clickEn (← bitValue b)]
  | "EXTTEMPO", [b] => do return [.setflag .extTempo (← bitValue b)]
  | "TAPGATE", [b] => do return [.setflag .tapGate (← bitValue b)]
  | "ERASEHOLD", [b] => do return [.setflag .eraseHold (← bitValue b)]
  | _, _ => .error .unknownOperation

/-- Assemble one line: a comment starts at `;`, an empty line gives no word (R111). -/
def assembleLine (line : String) : Except AsmError (List Word) :=
  let text := trimBlanks (line.toList.takeWhile (· != ';'))
  if text = [] then .ok []
  else do
    let is ← expandLine (String.ofList (text.takeWhile (!isBlank ·))) (cutOperands (text.dropWhile (!isBlank ·)))
    return is.map encode

/-- Assemble a program, line by line, up to the first error. -/
def assemble : List String → Except AsmError (List Word)
  | [] => .ok []
  | line :: rest => do return (← assembleLine line) ++ (← assemble rest)

end Sys2Proof.Machine
end

