-- ==== Sys2Proof/Safety.lean ====
section
/-! DEFINITION. What counts as a good state and a safe run of the block.

`Inv` collects the invariants the spec states or derives. It holds at reset and every step keeps it; a claim that
could fail only in states no run reaches takes it, or one of its parts, as a premise. -/

namespace Sys2Proof.Machine

/-- A voice whose table has last index `len` (R183, R186, R187): deactivation resets it, its index is its accumulator
without the fraction, and its accumulator lies inside the table. -/
structure VoiceInv (len : Nat) (v : Voice) : Prop where
  inactive_is_idle : v.active = false → v = Voice.idle
  index_of_acc : v.idx.toNat = v.acc.toNat / 64
  acc_in_table : v.acc.toNat < 64 * (len + 1)

/-- The time base between operations: the step length is positive (R33), the step edge is armed only inside a TICK
(R123), and a transport that was stopped at the last TICK rests at step 31 (R133). -/
structure TimeInv (s : State) : Prop where
  stepLength_pos : 0 < s.host.stepLength.toNat
  no_pending_edge : s.tick.prevStepIndex = s.tick.stepIndex
  stopped_at_31 : s.tick.prevPlay = false → s.tick.stepIndex = 31 ∧ s.tick.lastStepTick = 0

/-- The tap history (R34): the count saturates at 2 and a rescaled interval has 30 bits. -/
structure TapInv (h : HostRegs) : Prop where
  count_le : h.tapCount.toNat ≤ 2
  hist_lt : ∀ i : Fin 2, h.tapHist[i].toNat < 2 ^ 30

/-- The click (R47, R48, R137, R138): an amplitude of 1, 2 or 3 is never held (R139). -/
structure ClickInv (s : State) : Prop where
  amp_le : s.tick.clickAmp.toNat ≤ 64
  amp_zero_or_audible : s.tick.clickAmp = 0 ∨ 4 ≤ s.tick.clickAmp.toNat
  div_lt : s.tick.clickDiv.toNat < 5
  inc_is_a_pitch : s.tick.clickInc = s.cfg.clickIncLow ∨ s.tick.clickInc = s.cfg.clickIncMid ∨
    s.tick.clickInc = s.cfg.clickIncHigh

/-- The recorder (R40, R51, R52, R242): no recording while stopped, a count only while the erase is armed, and a
blocked erase only while the hold lasts. -/
structure RecorderInv (h : HostRegs) : Prop where
  record_plays : h.record = true → h.play = true
  count_lt : h.eraseCount.toNat < 800
  count_armed : h.eraseCount ≠ 0 → h.eraseArmed = true
  blocked_held : h.eraseBlocked = true → h.eraseHold = true

/-- The output stream holds one byte for each TICK since reset, the last of them in `S.sample` (R50, R125). -/
structure StreamInv (s : State) : Prop where
  one_byte_per_tick : s.tick.tickCounter = BitVec.ofNat 32 s.emitted.length
  sample_is_last : s.tick.sample = s.emitted.getLastD 127

/-- The invariant of the block. -/
structure Inv (s : State) : Prop where
  voices : ∀ v : VoiceNo, VoiceInv s.cfg.len[v] s.tick.voices[v]
  time : TimeInv s
  tap : TapInv s.host
  click : ClickInv s
  recorder : RecorderInv s.host
  stream : StreamInv s
  memory : s.mem.wf = true

/-- Slot 127 of every track and space reads 0 (`spec/93_implementation_defined.md` section 3). -/
def LastSlotsClear (s : State) : Prop :=
  (∀ t : Track, s.mem.readTrig t 127 = 0) ∧ ∀ m : Melodic, s.mem.readPitch m 127 = 0

/-- A safe outcome: the machine goes on, neither a fault nor a refusal (R280). -/
def Goes (o : Host.Outcome State Fault Refusal) : Prop := ∃ t, o = .next t

/-- A safe run: it goes on for any number of steps (R294: "the block has no halt"). -/
def SafeRun (s : State) : Prop := ∀ k, Goes (Sys2Proof.core.run k s)

end Sys2Proof.Machine
end

