-- ==== Sys2Proof/Certificates/Slice0/Obligations.lean ====
section
/-! DEFINITION. The statements for the provers. Each is about every state, operand and configuration unless it says
otherwise; `exec i s = .next t` in a conclusion says that the operation completes. -/

open Sys2Proof Sys2Proof.Machine

/-! ## Encoding (`spec/30_encoding.md`) -/

/-- R113: the assembler gives the example words, and the decoder reads each as the operation it stands for. -/
def Obligations.ExampleWordsAssembleAndDecode : Prop :=
  (assembleLine "TICK" = .ok [0x10000000] ∧ decode 0x10000000 = .tick) ∧
  (assembleLine "TRIG 2" = .ok [0x20000002] ∧ decode 0x20000002 = .trig 2) ∧
  (assembleLine "SETPITCH 1, 0x0100" = .ok [0x30010100] ∧ decode 0x30010100 = .setpitch 1 0x0100) ∧
  (assembleLine "SETFLAG CLICK_EN, 1" = .ok [0x50000201] ∧ decode 0x50000201 = .setflag .clickEn true) ∧
  (assembleLine "PLAY 1" = .ok [0x60000001] ∧ decode 0x60000001 = .play true) ∧
  (assembleLine "SETTEMPO 200" = .ok [0xC00000C8] ∧ decode 0xC00000C8 = .settempo 200) ∧
  (assembleLine "RDREG STATUS" = .ok [0xD0000000] ∧ decode 0xD0000000 = .rdreg .status) ∧
  (assembleLine "RDSEQ PITCH, 3, 5" = .ok [0xE0001305] ∧ decode 0xE0001305 = .rdseq (.pitch 1 5))

/-- R101 to R107, R111: decoding the encoding of a well-formed operation gives it back, with every operand. -/
def Obligations.DecodeAfterEncode : Prop := ∀ i : Instr, i.wf = true → decode (encode i) = i

/-- R101, R103, R111: encoding what a word decodes to keeps the named bits and clears the reserved ones. -/
def Obligations.EncodeAfterDecodeClearsReservedBits : Prop := ∀ w : Word, encode (decode w) = w &&& fieldMask w

/-- R103: a word with reserved bits set performs the same operation as the word with them cleared, and the reserved
bits do not set cmdErr. -/
def Obligations.ReservedBitsAreIgnored : Prop :=
  ∀ (w : Word) (s : State), exec (decode w) s = exec (decode (w &&& fieldMask w)) s ∧
    ((decode (w &&& fieldMask w)).isReserved = false → ∃ t, exec (decode w) s = .next t ∧ t.host.cmdErr = s.host.cmdErr)

/-- R107: every word is exactly one row, the row of its opcode field, and its selector fields decode to a defined
meaning or to one of the reserved values, which are those of R105 and R106. -/
def Obligations.EveryWordIsOneRow : Prop :=
  ∀ w : Word, (decode w).opcode = w.extractLsb' 28 4 ∧ (decode w).wf = true ∧
    ((decode w).isReserved = true ↔
      w.extractLsb' 28 4 = 0xF ∨
      (w.extractLsb' 28 4 = 0x5 ∧ 6 ≤ (w.extractLsb' 8 4).toNat) ∨
      (w.extractLsb' 28 4 = 0xD ∧ 28 ≤ (w.extractLsb' 0 5).toNat) ∨
      (w.extractLsb' 28 4 = 0xE ∧ w.extractLsb' 12 1 = 1 ∧ (w.extractLsb' 8 2).toNat < 2))

/-- R85: a command word moves as four bytes, least significant first. That a shorter stream is rejected by name is the
model's choice (assumption log 1). -/
def Obligations.WordsMoveLittleEndian : Prop :=
  (∀ (w : Word) (rest : List Byte), decodeBytes (wordBytes w ++ rest) = .ok (decode w, rest)) ∧
  ∀ bs : List Byte, bs.length < 4 → decodeBytes bs = .error .truncated

/-! ## Steps and runs (`spec/20_memory.md` R88, `spec/60_exceptions.md`) -/

/-- R31, R88: a step applies the next pending operation, decoded, to the state that has consumed it. With none pending a
step changes nothing, which is the model's choice (assumption log 1; R293 says it of a timer that stops). -/
def Obligations.StepAppliesTheNextWord : Prop :=
  (∀ (s : State) (w : Word) (rest : List Word), s.pending = w :: rest →
    step s = exec (decode w) { s with pending := rest }) ∧
  ∀ s : State, s.pending = [] → step s = .next s

/-- R280: every operation, in every state, completes, and none changes the configuration or the pending operations. -/
def Obligations.EveryOperationCompletes : Prop :=
  ∀ (i : Instr) (s : State), ∃ t, exec i s = .next t ∧ t.cfg = s.cfg ∧ t.pending = s.pending

/-- R31, R88, R294: k steps consume the first k operations, each once and in order, and never stop. -/
def Obligations.RunConsumesOperationsInOrder : Prop :=
  ∀ (k : Nat) (s : State), SafeRun s ∧ ∃ t, Sys2Proof.core.run k s = .next t ∧ t.pending = s.pending.drop k

/-! ## Reset (`spec/70_reset_and_hazards.md`) -/

/-- R300: every field of R57 at its reset value, under every configuration. -/
def Obligations.ResetValues : Prop :=
  ∀ cfg : Config, (State.resetWith cfg).cfg = cfg ∧
    ((State.resetWith cfg).tick.tickCounter = 0 ∧ (State.resetWith cfg).host.stepLength = cfg.stepLengthReset ∧
      (State.resetWith cfg).host.tapHist = #v[0, 0] ∧ (State.resetWith cfg).host.tapSlot = 0 ∧
      (State.resetWith cfg).host.tapCount = 0 ∧ (State.resetWith cfg).host.prevTapTick = 0 ∧
      (State.resetWith cfg).tick.lastStepTick = 0 ∧ (State.resetWith cfg).tick.stepIndex = 31 ∧
      (State.resetWith cfg).tick.prevStepIndex = 31 ∧ (State.resetWith cfg).latch.step = false ∧
      (State.resetWith cfg).latch.live = #v[false, false, false, false] ∧
      (State.resetWith cfg).tick.prevPlay = false) ∧
    ((State.resetWith cfg).host.play = false ∧ (State.resetWith cfg).host.record = false ∧
      (State.resetWith cfg).host.reverse = false ∧ (State.resetWith cfg).host.mixBlend = false ∧
      (State.resetWith cfg).host.clickEn = false ∧ (State.resetWith cfg).host.extTempo = false ∧
      (State.resetWith cfg).host.tapGate = false ∧ (State.resetWith cfg).host.eraseHold = false ∧
      (State.resetWith cfg).host.bank = 0 ∧ (State.resetWith cfg).host.livePitch = #v[0, 0] ∧
      (State.resetWith cfg).host.noiseRate = 0 ∧ (State.resetWith cfg).host.eraseCount = 0 ∧
      (State.resetWith cfg).host.eraseBlocked = false ∧ (State.resetWith cfg).host.rdata = 0 ∧
      (State.resetWith cfg).host.cmdErr = false) ∧
    (∀ v : VoiceNo, (State.resetWith cfg).tick.voices[v] = { acc := 0, idx := 0, active := false }) ∧
    (∀ v : Fin 4, (State.resetWith cfg).inc (v.castLE (by omega)) = cfg.voiceInc[v]) ∧
    (State.resetWith cfg).inc 4 = 0 ∧ (State.resetWith cfg).inc 5 = 0 ∧
    ((State.resetWith cfg).tick.clickAcc = 0 ∧ (State.resetWith cfg).tick.clickInc = cfg.clickIncLow ∧
      (State.resetWith cfg).tick.clickAmp = 0 ∧ (State.resetWith cfg).tick.clickDiv = 0 ∧
      (State.resetWith cfg).tick.noiseAcc = 0 ∧ (State.resetWith cfg).tick.sample = 127) ∧
    (∀ t a, (State.resetWith cfg).mem.readTrig t a = 0) ∧ ∀ m a, (State.resetWith cfg).mem.readPitch m a = 0

/-- R264, R301: what the register view reads after reset, and that the reset state is one of these. -/
def Obligations.ResetRegisterView : Prop :=
  (∀ cfg : Config, (State.resetWith cfg).regView .status = 0x00007FE0 ∧ (State.resetWith cfg).regView .mode = 0 ∧
    (State.resetWith cfg).regView .stepLength = cfg.stepLengthReset ∧
    (State.resetWith cfg).regView .click = cfg.clickIncLow.setWidth 32 <<< 16 ∧
    (State.resetWith cfg).regView .sample = 127 ∧
    (∀ v : Fin 4, (State.resetWith cfg).regView (.vidx (v.castLE (by omega))) = cfg.voiceInc[v].setWidth 32 <<< 16) ∧
    ∀ r : BitVec 5, r.toNat ≤ 27 → r.toNat ∉ [0, 3, 11, 13, 17, 19, 21, 23] →
      (State.resetWith cfg).regView (decodeReg r) = 0) ∧
  State.reset = State.resetWith State.reset.cfg

/-- R301: the first TICK after reset, with no command before it and whatever the configuration, takes the stopped branch,
sees no step edge and emits 127. -/
def Obligations.FirstTickAfterResetIsSilent : Prop :=
  ∀ cfg : Config, ∃ t, exec .tick (State.resetWith cfg) = .next t ∧ t.tick.stepIndex = 31 ∧
    t.tick.prevStepIndex = 31 ∧ t.tick.tickCounter = 1 ∧ t.emitted = [127] ∧ t.tick.sample = 127 ∧
    ∀ v : VoiceNo, t.tick.voices[v].active = false

/-- R9 with R8's pitch order, R33 and R82 (assumption log 4): exactly the configurations that meet the constraints are
accepted, unchanged. -/
def Obligations.ConfigurationsAreChecked : Prop :=
  ∀ d : ConfigData, (∀ c, Config.accept d = .ok c → c.toConfigData = d) ∧
    ((∃ c, Config.accept d = .ok c) ↔
      (∀ v : VoiceNo, d.len[v] ≤ 64511 ∧ d.len[v] + 1 ≤ (d.table v).length) ∧
      1 ≤ d.clickTable.length ∧ 1 ≤ d.noiseTable.length ∧
      (∀ t : Track, ((4 : VoiceNo) ∈ d.trackVoices[t] → t = 2) ∧ ((5 : VoiceNo) ∈ d.trackVoices[t] → t = 3) ∧
        ∀ v : VoiceNo, v.val < 4 → v ∈ d.trackVoices[t] → t = 0 ∨ t = 1) ∧
      d.clickIncLow < d.clickIncMid ∧ d.clickIncMid < d.clickIncHigh ∧
      (∀ b : Fin 4, d.bankOffsets[b] + 31 ≤ 127) ∧ d.stepLengthReset ≠ 0)

/-! ## TICK: counter and time base (`spec/41_timebase.md`) -/

/-- R130: each TICK adds 1 to the counter modulo 2^32, and no other operation writes it. -/
def Obligations.OnlyTickAdvancesTheCounter : Prop :=
  (∀ s : State, ∃ t, exec .tick s = .next t ∧
    t.tick.tickCounter.toNat = (s.tick.tickCounter.toNat + 1) % 2 ^ 32) ∧
  ∀ (i : Instr) (s : State), i ≠ .tick → ∃ t, exec i s = .next t ∧ t.tick.tickCounter = s.tick.tickCounter

/-- R132: playing on internal tempo, a TICK advances the step by one, modulo 32, exactly when the ticks elapsed since
the last advance, modulo 2^32 and counting this one, exceed the step length. -/
def Obligations.InternalTempoAdvancesTheStep : Prop :=
  ∀ s : State, s.host.play = true → s.host.extTempo = false → ∃ t, exec .tick s = .next t ∧
    (s.host.stepLength.toNat < (s.tick.tickCounter + 1 - s.tick.lastStepTick).toNat →
      t.tick.stepIndex.toNat = (s.tick.stepIndex.toNat + 1) % 32 ∧ t.tick.lastStepTick = t.tick.tickCounter) ∧
    (¬s.host.stepLength.toNat < (s.tick.tickCounter + 1 - s.tick.lastStepTick).toNat →
      t.tick.stepIndex = s.tick.stepIndex ∧ t.tick.lastStepTick = s.tick.lastStepTick)

/-- R134: playing on external tempo, a TICK advances the step by one exactly when the step latch is set, whatever the
elapsed ticks; every TICK discards the latch. -/
def Obligations.ExternalTempoFollowsTheStepLatch : Prop :=
  ∀ s : State, ∃ t, exec .tick s = .next t ∧ t.latch.step = false ∧ (s.host.play = true → s.host.extTempo = true →
    (s.latch.step = true →
      t.tick.stepIndex.toNat = (s.tick.stepIndex.toNat + 1) % 32 ∧ t.tick.lastStepTick = t.tick.tickCounter) ∧
    (s.latch.step = false → t.tick.stepIndex = s.tick.stepIndex ∧ t.tick.lastStepTick = s.tick.lastStepTick))

/-- R133, R181: while stopped a TICK rests the step at 31 and starts only voices with a live trigger; on the first TICK
after playing, under STOP_RESETS_VOICES, it resets every other voice, and without that every other voice takes its
ordinary untriggered TICK. -/
def Obligations.StoppedTickRestsAndResetsVoices : Prop :=
  ∀ s : State, s.host.play = false → ∃ t, exec .tick s = .next t ∧ t.tick.stepIndex = 31 ∧ t.tick.lastStepTick = 0 ∧
    ∀ v : VoiceNo,
      ((∃ n : Track, v ∈ s.cfg.trackVoices[n] ∧ s.latch.live[n] = true) →
        t.tick.voices[v] = { acc := 0, idx := 0, active := true }) ∧
      ((∀ n : Track, v ∈ s.cfg.trackVoices[n] → s.latch.live[n] = false) →
        s.tick.prevPlay = true ∧ s.cfg.stopResetsVoices = true →
        t.tick.voices[v] = { acc := 0, idx := 0, active := false }) ∧
      ((∀ n : Track, v ∈ s.cfg.trackVoices[n] → s.latch.live[n] = false) →
        ¬(s.tick.prevPlay = true ∧ s.cfg.stopResetsVoices = true) →
        t.tick.voices[v] = Voice.next false false (t.inc v) s.cfg.len[v] s.tick.voices[v])

/-- R137, R138: on a step edge to a quarter step the click is retriggered with the pitch of the step; otherwise the pitch
stays and one decay step runs. -/
def Obligations.ClickSchedulingAndDecay : Prop :=
  ∀ s : State, ∃ t, exec .tick s = .next t ∧
    ((t.tick.stepIndex ≠ s.tick.prevStepIndex ∧ t.tick.stepIndex.toNat % 4 = 0) →
      t.tick.clickAmp = 64 ∧ t.tick.clickDiv = 0 ∧
      t.tick.clickInc = if t.tick.stepIndex.toNat = 0 then s.cfg.clickIncLow
        else if t.tick.stepIndex.toNat % 8 = 0 then s.cfg.clickIncMid else s.cfg.clickIncHigh) ∧
    (¬(t.tick.stepIndex ≠ s.tick.prevStepIndex ∧ t.tick.stepIndex.toNat % 4 = 0) →
      t.tick.clickInc = s.tick.clickInc ∧
      (s.tick.clickDiv.toNat ≠ 4 →
        t.tick.clickDiv = s.tick.clickDiv + 1 ∧ t.tick.clickAmp = s.tick.clickAmp) ∧
      (s.tick.clickDiv.toNat = 4 → t.tick.clickDiv = 0 ∧
        t.tick.clickAmp.toNat = if s.tick.clickAmp.toNat - 1 < 4 then 0 else s.tick.clickAmp.toNat - 1))

/-- R139: n TICKs after a retrigger, with any host commands between them and no retrigger since, the amplitude is
64 - floor(n / 5) up to n = 304 and 0 from 305 on. -/
def Obligations.ClickEnvelopeOverARun : Prop :=
  ∀ (n : Nat) (f : Nat → State), (f 0).tick.clickAmp = 64 → (f 0).tick.clickDiv = 0 →
    (∀ k < n, ∃ u : State, u.tick = (f k).tick ∧ exec .tick u = .next (f (k + 1)) ∧
      ¬((f (k + 1)).tick.stepIndex ≠ u.tick.prevStepIndex ∧ (f (k + 1)).tick.stepIndex.toNat % 4 = 0)) →
    (f n).tick.clickAmp.toNat = if n ≤ 304 then 64 - n / 5 else 0

/-- R132 (its corner case): on internal tempo with a constant step length L below 2^32 - 1, after an advance the step
stays for L TICKs and advances on TICK L + 1, whatever other host commands arrive. -/
def Obligations.StepPeriodIsLengthPlusOne : Prop :=
  ∀ (L : Word) (f : Nat → State), L.toNat < 2 ^ 32 - 1 → (f 0).tick.lastStepTick = (f 0).tick.tickCounter →
    (∀ k ≤ L.toNat, ∃ u : State, u.tick = (f k).tick ∧ u.host.play = true ∧ u.host.extTempo = false ∧
      u.host.stepLength = L ∧ exec .tick u = .next (f (k + 1))) →
    (∀ k ≤ L.toNat, (f k).tick.stepIndex = (f 0).tick.stepIndex) ∧
      (f (L.toNat + 1)).tick.stepIndex = (f 0).tick.stepIndex + 1 ∧
      (f (L.toNat + 1)).tick.lastStepTick = (f (L.toNat + 1)).tick.tickCounter

/-- R136: the step a TICK reaches depends only on the ticks elapsed since the last advance (a difference of tick
counters), the step, the step length, the transport, the tempo source and the step latch; and so does, while playing,
the elapsed time it leaves. -/
def Obligations.StepTimingDependsOnlyOnTheTimeBase : Prop :=
  ∀ s s' : State, s.tick.tickCounter - s.tick.lastStepTick = s'.tick.tickCounter - s'.tick.lastStepTick →
    s.tick.stepIndex = s'.tick.stepIndex → s.host.stepLength = s'.host.stepLength → s.host.play = s'.host.play →
    s.host.extTempo = s'.host.extTempo → s.latch.step = s'.latch.step →
    ∃ t t', exec .tick s = .next t ∧ exec .tick s' = .next t' ∧ t.tick.stepIndex = t'.tick.stepIndex ∧
      (s.host.play = true → t.tick.tickCounter - t.tick.lastStepTick = t'.tick.tickCounter - t'.tick.lastStepTick)

/-! ## TICK: sequencer and voices (`spec/42_sequencer.md`, `spec/43_voices.md`) -/

/-- R161 to R164, R182: a TICK starts voice v from index 0 when a track routed to it has its live latch set, or has its
trigger bit set at the slot the playhead just arrived at while playing. -/
def Obligations.TriggersStartTheRoutedVoices : Prop :=
  ∀ s : State, ∃ t, exec .tick s = .next t ∧ ∀ (v : VoiceNo) (n : Track) (a : Slot), v ∈ s.cfg.trackVoices[n] →
    a.toNat = t.tick.stepIndex.toNat + s.cfg.bankOffsets[s.host.bank.toNat] →
    (s.latch.live[n] = true ∨
      (t.tick.stepIndex ≠ s.tick.prevStepIndex ∧ s.host.play = true ∧ s.mem.readTrig n a = 1)) →
    t.tick.voices[v] = { acc := 0, idx := 0, active := true }

/-- R183 with R46 and R161 to R164: a voice that no routed track triggers and no stop resets advances by its increment
while active and ends past its table; an inactive one does nothing. -/
def Obligations.UntriggeredVoicesAdvance : Prop :=
  ∀ s : State, ∃ t, exec .tick s = .next t ∧ ∀ (v : VoiceNo) (a : Slot),
    a.toNat = t.tick.stepIndex.toNat + s.cfg.bankOffsets[s.host.bank.toNat] →
    (∀ n : Track, v ∈ s.cfg.trackVoices[n] → s.latch.live[n] = false ∧
      ¬(t.tick.stepIndex ≠ s.tick.prevStepIndex ∧ s.host.play = true ∧ s.mem.readTrig n a = 1)) →
    ¬(s.host.play = false ∧ s.tick.prevPlay = true ∧ s.cfg.stopResetsVoices = true) →
    (s.tick.voices[v].active = false → t.tick.voices[v] = s.tick.voices[v]) ∧
    (s.tick.voices[v].active = true → ∀ (acc : Word) (idx : Half),
      acc.toNat = (s.tick.voices[v].acc.toNat + (t.inc v).toNat) % 2 ^ 32 → idx.toNat = acc.toNat / 64 % 2 ^ 16 →
      t.tick.voices[v] = if s.cfg.len[v] < idx.toNat then { acc := 0, idx := 0, active := false }
        else { acc := acc, idx := idx, active := true })

/-- R165, R166, R46: a pitched voice takes the live pitch on a live trigger, else the stored pitch on a sequenced one,
else keeps its increment; a percussive voice keeps VOICE_INC. -/
def Obligations.PitchedIncrements : Prop :=
  ∀ s : State, ∃ t, exec .tick s = .next t ∧
    (∀ v : Fin 4, t.inc (v.castLE (by omega)) = s.cfg.voiceInc[v]) ∧
    ∀ (m : Melodic) (n : Track) (v : VoiceNo) (a : Slot), n.val = 2 + m.val → v.val = 4 + m.val →
      a.toNat = t.tick.stepIndex.toNat + s.cfg.bankOffsets[s.host.bank.toNat] →
      (s.latch.live[n] = true → t.inc v = s.host.livePitch[m]) ∧
      (s.latch.live[n] = false →
        (t.tick.stepIndex ≠ s.tick.prevStepIndex ∧ s.host.play = true ∧ s.mem.readTrig n a = 1) →
        t.inc v = s.mem.readPitch m a) ∧
      (s.latch.live[n] = false →
        ¬(t.tick.stepIndex ≠ s.tick.prevStepIndex ∧ s.host.play = true ∧ s.mem.readTrig n a = 1) → t.inc v = s.inc v)

/-- R186: after every TICK an active voice's index, and its read address in either direction, is inside its table; and a
voice inside its table advances with no wrap and no lost bit. -/
def Obligations.VoiceReadsStayInTheTable : Prop :=
  (∀ s : State, ∃ t, exec .tick s = .next t ∧ ∀ v : VoiceNo, t.tick.voices[v].active = true →
    t.tick.voices[v].idx.toNat ≤ s.cfg.len[v] ∧
    ∀ reverse : Bool, readAddr reverse v s.cfg.len[v] t.tick.voices[v].idx.toNat ≤ s.cfg.len[v] ∧
      readAddr reverse v s.cfg.len[v] t.tick.voices[v].idx.toNat < (s.cfg.table v).length) ∧
  ∀ (cfg : Config) (v : VoiceNo) (x : Voice) (inc : Half), VoiceInv cfg.len[v] x →
    x.acc.toNat ≤ 64 * (cfg.len[v] + 1) - 1 ∧
    (x.acc + inc.setWidth 32).toNat = x.acc.toNat + inc.toNat ∧
    (x.acc + inc.setWidth 32).toNat / 64 ≤ cfg.len[v] + 1024 ∧ cfg.len[v] + 1024 < 2 ^ 16

/-- R187: from its trigger on, with increment inc and no retrigger or stop, a voice is at accumulator k * inc after k
TICKs while that is inside its table, and is reset from then on; so it sounds for ceil(64 * (LEN + 1) / inc) TICKs, and
for ever when inc is 0. -/
def Obligations.VoiceRunLength : Prop :=
  ∀ (inc : Half) (len k : Nat), len ≤ 64511 →
    ((Voice.next false false inc len)^[k] Voice.started) =
      if k * inc.toNat < 64 * (len + 1) then
        { acc := BitVec.ofNat 32 (k * inc.toNat), idx := BitVec.ofNat 16 (k * inc.toNat / 64), active := true }
      else { acc := 0, idx := 0, active := false }

/-- R184, R188, R315: reverse mode changes what a TICK emits and nothing else of it, and mirrors the read address of the
percussive voices only. -/
def Obligations.ReverseOnlyMirrorsReads : Prop :=
  (∀ (s : State) (b : Bool), ∃ t t', exec .tick s = .next t ∧
    exec .tick { s with host := { s.host with reverse := b } } = .next t' ∧
    t' = { t with host := { t.host with reverse := b }, tick := { t.tick with sample := t'.tick.sample }
                  emitted := s.emitted ++ [t'.tick.sample] }) ∧
  ∀ (v : VoiceNo) (len idx : Nat), idx ≤ len → readAddr false v len idx = idx ∧
    (v.val < 4 → readAddr true v len idx = len - idx ∧ readAddr true v len (len - idx) = idx) ∧
    (4 ≤ v.val → readAddr true v len idx = idx)

/-! ## TICK: mixer and output (`spec/44_mixer.md`) -/

/-- R201, R204: both free-running accumulators advance on every TICK, in both mix modes and whatever the gate. -/
def Obligations.OscillatorsRunFree : Prop :=
  ∀ s : State, ∃ t, exec .tick s = .next t ∧
    t.tick.clickAcc.toNat = (s.tick.clickAcc.toNat + t.tick.clickInc.toNat) % 2 ^ 32 ∧
    t.tick.noiseAcc.toNat = (s.tick.noiseAcc.toNat + s.host.noiseRate.toNat) % 2 ^ 32

/-- R208 with R184, R185, R202, R203, R207, R212: the byte a TICK emits in direct mode, from the registers it leaves. -/
def Obligations.DirectModeOutput : Prop :=
  ∀ s : State, s.host.mixBlend = false → ∃ t, exec .tick s = .next t ∧
    ∀ (x : VoiceNo → Int) (click : Int),
      (∀ v, t.tick.voices[v].active = false → x v = 0) →
      (∀ v, t.tick.voices[v].active = true → ∃ b : Byte, (s.cfg.table v)[if s.host.reverse = true ∧ v.val < 4
        then s.cfg.len[v] - t.tick.voices[v].idx.toNat else t.tick.voices[v].idx.toNat]? = some b ∧
        x v = (b.toNat : Int) - 127) →
      (¬(s.host.play = true ∧ s.host.clickEn = true ∧ 4 ≤ t.tick.clickAmp.toNat) → click = 0) →
      (s.host.play = true ∧ s.host.clickEn = true ∧ 4 ≤ t.tick.clickAmp.toNat →
        ∃ b : Byte, s.cfg.clickTable[t.tick.clickAcc.toNat / 64 % s.cfg.clickTable.length]? = some b ∧
          click = ((b.toNat : Int) - 127) * t.tick.clickAmp.toNat / 64) →
      t.tick.sample = outByte ((x 0 + x 1 + x 2 + x 3 + x 4 + x 5 + click) / 2 + 127) ∧
      t.emitted = s.emitted ++ [t.tick.sample]

/-- R209 with R184, R185, R202, R203, R205 to R207, R212: the byte a TICK emits in blend mode. -/
def Obligations.BlendModeOutput : Prop :=
  ∀ s : State, s.host.mixBlend = true → ∃ t, exec .tick s = .next t ∧
    ∀ (x : VoiceNo → Int) (click noise : Int),
      (∀ v, t.tick.voices[v].active = false → x v = 0) →
      (∀ v, t.tick.voices[v].active = true → ∃ b : Byte, (s.cfg.table v)[if s.host.reverse = true ∧ v.val < 4
        then s.cfg.len[v] - t.tick.voices[v].idx.toNat else t.tick.voices[v].idx.toNat]? = some b ∧
        x v = (b.toNat : Int) - 127) →
      (¬(s.host.play = true ∧ s.host.clickEn = true ∧ 4 ≤ t.tick.clickAmp.toNat) → click = 0 ∧ noise = 0) →
      (s.host.play = true ∧ s.host.clickEn = true ∧ 4 ≤ t.tick.clickAmp.toNat →
        (∃ b : Byte, s.cfg.clickTable[t.tick.clickAcc.toNat / 64 % s.cfg.clickTable.length]? = some b ∧
          click = ((b.toNat : Int) - 127) * t.tick.clickAmp.toNat / 64) ∧
        ∃ b : Byte, s.cfg.noiseTable[t.tick.noiseAcc.toNat / 64 % s.cfg.noiseTable.length]? = some b ∧
          noise = ((b.toNat : Int) - 127) * t.tick.clickAmp.toNat / 64) →
      t.tick.sample = outByte (127 + (x 0 + x 1 + x 2 + x 3 + x 4 + x 5) +
        (BitVec.ofInt 16 (click / 2 ^ s.cfg.blendClickShift) ||| BitVec.ofInt 16 noise).toInt) ∧
      t.emitted = s.emitted ++ [t.tick.sample]

/-- R210, R211: the two reflections, once each and in order, then the low 8 bits. That a folded value above 255 gives its
low 8 bits, where `spec/93_implementation_defined.md` section 3 lets a model admit any byte, is assumption log 11. -/
def Obligations.FoldBackReflectsOnce : Prop :=
  (∀ v : Int, 0 ≤ v → v ≤ 255 → foldBack v = v) ∧
  (∀ v : Int, 255 < v → 0 ≤ v - 2 * (v - 255) → foldBack v = 510 - v) ∧
  (∀ v : Int, 255 < v → v - 2 * (v - 255) < 0 → foldBack v = v - 510) ∧
  (∀ v : Int, v < 0 → foldBack v = -v) ∧
  (∀ v : Int, (outByte v).toNat = foldBack v % 256) ∧
  ∀ v : Int, -255 ≤ v → v ≤ 510 → ((outByte v).toNat : Int) = foldBack v

/-- R203, R206 to R209: the ranges of the mixer's values after a TICK, for an amplitude of at most 64 (R48, part of
`Inv`) and any configuration. -/
def Obligations.MixerRanges : Prop :=
  ∀ s : State, s.tick.clickAmp.toNat ≤ 64 → ∃ t, exec .tick s = .next t ∧
    (∀ v, -127 ≤ t.voiceSample v ∧ t.voiceSample v ≤ 128) ∧
    -762 ≤ t.voiceSum ∧ t.voiceSum ≤ 768 ∧
    -127 ≤ t.clickSample ∧ t.clickSample ≤ 128 ∧ -127 ≤ t.noiseSample ∧ t.noiseSample ≤ 128 ∧
    -318 ≤ mixDirect t.voiceSum t.clickSample ∧ mixDirect t.voiceSum t.clickSample ≤ 575 ∧
    -128 ≤ blendOf s.cfg.blendClickShift t.clickSample t.noiseSample ∧
    blendOf s.cfg.blendClickShift t.clickSample t.noiseSample ≤ 255 ∧
    -763 ≤ mixBlended s.cfg.blendClickShift t.voiceSum t.clickSample t.noiseSample ∧
    mixBlended s.cfg.blendClickShift t.voiceSum t.clickSample t.noiseSample ≤ 1150

/-! ## TICK: bookkeeping and ownership (`spec/40_tick.md`) -/

/-- R123: a TICK ends by remembering the step index and the transport and clearing every latch. That it leaves every
host-written field, every storage slot and the configuration as they are is the spec's own inference (R124, derived from
R120 and R57; R80 for the storage). -/
def Obligations.TickBookkeepingAndOwnership : Prop :=
  ∀ s : State, ∃ t, exec .tick s = .next t ∧ t.tick.prevStepIndex = t.tick.stepIndex ∧
    t.tick.prevPlay = s.host.play ∧ (∀ n : Track, t.latch.live[n] = false) ∧ t.latch.step = false ∧
    t.host = s.host ∧ t.cfg = s.cfg ∧ (∀ n a, t.mem.readTrig n a = s.mem.readTrig n a) ∧
    ∀ m a, t.mem.readPitch m a = s.mem.readPitch m a

/-- R125: every TICK emits exactly one byte, and no other operation emits. -/
def Obligations.OneBytePerTick : Prop :=
  (∀ s : State, ∃ t, exec .tick s = .next t ∧ t.emitted = s.emitted ++ [t.tick.sample]) ∧
  ∀ (i : Instr) (s : State), i ≠ .tick → ∃ t, exec i s = .next t ∧ t.emitted = s.emitted

/-- R57, R290, R291: a host command leaves every TICK-written field, the configuration and the output stream as they are,
writes a latch only by TRIG or STEP, and then only sets it. -/
def Obligations.HostCommandsKeepTickFields : Prop :=
  ∀ (i : Instr) (s : State), i.agent = .host → ∃ t, exec i s = .next t ∧ t.tick = s.tick ∧ t.cfg = s.cfg ∧
    t.emitted = s.emitted ∧ (∀ n : Track, t.latch.live[n] = (s.latch.live[n] || decide (i = .trig n))) ∧
    t.latch.step = (s.latch.step || decide (i = .step))

/-! ## Host commands -/

/-- R260: NOP changes nothing, whatever its reserved bits. -/
def Obligations.NopChangesNothing : Prop :=
  encode .nop = 0x00000000 ∧ (∀ s : State, exec .nop s = .next s) ∧
  ∀ w : Word, w.extractLsb' 28 4 = 0 → decode w = .nop

/-- R140: PLAY writes the transport, forces record off when stopping and clears the erase counter. -/
def Obligations.PlaySetsTheTransport : Prop :=
  (∀ s : State, exec (.play true) s = .next { s with host := { s.host with play := true, eraseCount := 0 } }) ∧
  (∀ s : State, exec (.play false) s =
    .next { s with host := { s.host with play := false, record := false, eraseCount := 0 } }) ∧
  encode (.play true) = 0x60000001 ∧ encode (.play false) = 0x60000000

/-- R141: TAP has no effect while the gate is closed; while it is open it records the rescaled interval, and from the
second interval on it sets the step length to the mean, at least 1; it writes nothing else. -/
def Obligations.TapMeasuresTheTempo : Prop :=
  encode .tap = 0x80000000 ∧
  (∀ s : State, s.host.tapGate = false → exec .tap s = .next s) ∧
  ∀ s : State, s.host.tapGate = true → ∃ t, exec .tap s = .next t ∧
    t = { s with host := { s.host with tapHist := t.host.tapHist, tapSlot := t.host.tapSlot
                                       tapCount := t.host.tapCount, prevTapTick := s.tick.tickCounter
                                       stepLength := t.host.stepLength } } ∧
    (∀ k : Fin 2, k.val = s.host.tapSlot.toNat →
      t.host.tapHist[k].toNat = (s.tick.tickCounter - s.host.prevTapTick).toNat / 4) ∧
    (∀ k : Fin 2, k.val ≠ s.host.tapSlot.toNat → t.host.tapHist[k] = s.host.tapHist[k]) ∧
    t.host.tapSlot.toNat = 1 - s.host.tapSlot.toNat ∧
    t.host.tapCount.toNat = min (s.host.tapCount.toNat + 1) 2 ∧
    (t.host.tapCount.toNat = 2 →
      t.host.stepLength.toNat = max 1 ((t.host.tapHist[0].toNat + t.host.tapHist[1].toNat) / 2)) ∧
    (t.host.tapCount.toNat ≠ 2 → t.host.stepLength = s.host.stepLength)

/-- R145: SETTEMPO stores max(1, val) and nothing else. -/
def Obligations.SettempoSetsTheStepLength : Prop :=
  (∀ val : BitVec 28, encode (.settempo val) = 0xC0000000#32 ||| val.setWidth 32) ∧
  ∀ (val : BitVec 28) (s : State), exec (.settempo val) s = .next { s with host := { s.host with
    stepLength := BitVec.ofNat 32 (max 1 val.toNat) } }

/-- R147: STEP sets the step latch and nothing else. -/
def Obligations.StepSetsTheLatch : Prop :=
  encode .step = 0xA0000000 ∧ ∀ s : State, exec .step s = .next { s with latch := { s.latch with step := true } }

/-- R170, R231, R232: TRIG sets its live latch; while recording it also sets the trigger bit of its track at the
quantized step of the selected bank and, for T2 and T3, stores the live pitch there; no other slot or field changes. -/
def Obligations.TrigLatchesAndRecords : Prop :=
  (∀ n : Track, encode (.trig n) = 0x20000000#32 ||| BitVec.ofNat 32 n.val) ∧
  ∀ (n : Track) (s : State), ∃ t, exec (.trig n) s = .next t ∧
    t = { s with latch := t.latch, mem := t.mem } ∧ t.latch.step = s.latch.step ∧
    (∀ k : Track, t.latch.live[k] = (s.latch.live[k] || decide (k = n))) ∧
    (s.host.record = false → t.mem = s.mem) ∧
    (s.host.record = true → ∀ (w : StepNo) (a : Slot),
      w.toNat = (if 3 * s.host.stepLength.toNat / 4 ≤ (s.tick.tickCounter - s.tick.lastStepTick).toNat
        then (s.tick.stepIndex.toNat + 1) % 32 else s.tick.stepIndex.toNat) →
      a.toNat = w.toNat + s.cfg.bankOffsets[s.host.bank.toNat] →
      t.mem.readTrig n a = 1 ∧
      (∀ k b, (k ≠ n ∨ b ≠ a) → t.mem.readTrig k b = s.mem.readTrig k b) ∧
      (∀ m : Melodic, n.val = 2 + m.val → t.mem.readPitch m a = s.host.livePitch[m]) ∧
      ∀ (m : Melodic) b, (n.val ≠ 2 + m.val ∨ b ≠ a) → t.mem.readPitch m b = s.mem.readPitch m b)

/-- R172, R190, R213: BANK writes the bank, SETPITCH one live pitch register, SETNOISE the noise rate, and each of them
nothing else. -/
def Obligations.ControlRegisterWrites : Prop :=
  ((∀ n : BitVec 2, encode (.bank n) = 0x90000000#32 ||| n.setWidth 32) ∧
    (∀ (m : Melodic) (val : Half),
      encode (.setpitch m val) = 0x30000000#32 ||| (BitVec.ofNat 32 m.val <<< 16) ||| val.setWidth 32) ∧
    ∀ val : Half, encode (.setnoise val) = 0x40000000#32 ||| val.setWidth 32) ∧
  (∀ (n : BitVec 2) (s : State), exec (.bank n) s = .next { s with host := { s.host with bank := n } }) ∧
  (∀ (m : Melodic) (val : Half) (s : State), ∃ t, exec (.setpitch m val) s = .next t ∧
    t = { s with host := { s.host with livePitch := t.host.livePitch } } ∧ t.host.livePitch[m] = val ∧
    ∀ k : Melodic, k ≠ m → t.host.livePitch[k] = s.host.livePitch[k]) ∧
  ∀ (val : Half) (s : State), exec (.setnoise val) s = .next { s with host := { s.host with noiseRate := val } }

/-- R261 with the identifiers of R105: each identifier selects its own flag, and SETFLAG writes that flag and nothing
else; releasing the erase hold also clears the erase counter and the block; a reserved identifier, 6..15, sets cmdErr and
nothing else. -/
def Obligations.SetflagWritesOneFlag : Prop :=
  (decodeFlag 0 = .reverse ∧ decodeFlag 1 = .mixBlend ∧ decodeFlag 2 = .clickEn ∧ decodeFlag 3 = .extTempo ∧
    decodeFlag 4 = .tapGate ∧ decodeFlag 5 = .eraseHold ∧
    ∀ id : BitVec 4, 6 ≤ id.toNat → decodeFlag id = .reserved id) ∧
  (∀ (w : Word), w.extractLsb' 28 4 = 0x5 →
    decode w = .setflag (decodeFlag (w.extractLsb' 8 4)) (w.getLsbD 0)) ∧
  (∀ (id : BitVec 4) (b : Bool), encode (.setflag (decodeFlag id) b) =
    0x50000000#32 ||| (id.setWidth 32 <<< 8) ||| (BitVec.ofBool b).setWidth 32) ∧
  (∀ (b : Bool) (s : State),
    exec (.setflag .reverse b) s = .next { s with host := { s.host with reverse := b } } ∧
    exec (.setflag .mixBlend b) s = .next { s with host := { s.host with mixBlend := b } } ∧
    exec (.setflag .clickEn b) s = .next { s with host := { s.host with clickEn := b } } ∧
    exec (.setflag .extTempo b) s = .next { s with host := { s.host with extTempo := b } } ∧
    exec (.setflag .tapGate b) s = .next { s with host := { s.host with tapGate := b } }) ∧
  (∀ s : State, exec (.setflag .eraseHold true) s = .next { s with host := { s.host with eraseHold := true } } ∧
    exec (.setflag .eraseHold false) s =
      .next { s with host := { s.host with eraseHold := false, eraseCount := 0, eraseBlocked := false } }) ∧
  ∀ (id : BitVec 4) (b : Bool) (s : State),
    exec (.setflag (.reserved id) b) s = .next { s with host := { s.host with cmdErr := true } }

/-- R240: RECTOGGLE enters record and starts the transport, or leaves record without stopping it; either clears the
erase counter. -/
def Obligations.RectoggleTogglesRecord : Prop :=
  encode .rectoggle = 0x70000000 ∧
  (∀ s : State, s.host.record = false → exec .rectoggle s =
    .next { s with host := { s.host with record := true, play := true, eraseCount := 0 } }) ∧
  ∀ s : State, s.host.record = true → exec .rectoggle s =
    .next { s with host := { s.host with record := false, eraseCount := 0 } }

/-- R242, R236: a LOOPITER counts while the erase is armed, and on reaching 800 clears the 32 slots of the selected bank
in all four tracks and both spaces, blocks a second erase and sets play; otherwise it clears the count. -/
def Obligations.LoopiterCountsAndErases : Prop :=
  encode .loopiter = 0xB0000000 ∧
  (∀ s : State, ¬(s.host.record = true ∧ s.host.eraseHold = true ∧ s.host.eraseBlocked = false) →
    exec .loopiter s = .next { s with host := { s.host with eraseCount := 0 } }) ∧
  (∀ s : State, s.host.record = true → s.host.eraseHold = true → s.host.eraseBlocked = false →
    s.host.eraseCount + 1 ≠ 800 →
    exec .loopiter s = .next { s with host := { s.host with eraseCount := s.host.eraseCount + 1 } }) ∧
  ∀ s : State, s.host.record = true → s.host.eraseHold = true → s.host.eraseBlocked = false →
    s.host.eraseCount + 1 = 800 → ∃ t, exec .loopiter s = .next t ∧
      t = { s with mem := t.mem, host := { s.host with eraseCount := 0, eraseBlocked := true, play := true } } ∧
      ∀ a : Slot,
        ((∃ i < 32, a.toNat = s.cfg.bankOffsets[s.host.bank.toNat] + i) →
          (∀ n, t.mem.readTrig n a = 0) ∧ ∀ m, t.mem.readPitch m a = 0) ∧
        ((¬∃ i < 32, a.toNat = s.cfg.bankOffsets[s.host.bank.toNat] + i) →
          (∀ n, t.mem.readTrig n a = s.mem.readTrig n a) ∧ ∀ m, t.mem.readPitch m a = s.mem.readPitch m a)

/-- R242 (its corner cases), R236: from an armed hold with count 0, the first 799 LOOPITERs clear no slot, the 800th
erases, and any number of further ones changes nothing but leaves the count 0. -/
def Obligations.HoldErasesOnceAtEightHundred : Prop :=
  ∀ f : Nat → State, (f 0).host.record = true → (f 0).host.eraseHold = true → (f 0).host.eraseBlocked = false →
    (f 0).host.eraseCount = 0 → (∀ k, exec .loopiter (f k) = .next (f (k + 1))) →
    (∀ k ≤ 799, (f k).mem = (f 0).mem ∧ (f k).host.eraseCount.toNat = k) ∧
    (∀ a : Slot,
      ((∃ i < 32, a.toNat = (f 0).cfg.bankOffsets[(f 0).host.bank.toNat] + i) →
        (∀ n, (f 800).mem.readTrig n a = 0) ∧ ∀ m, (f 800).mem.readPitch m a = 0) ∧
      ((¬∃ i < 32, a.toNat = (f 0).cfg.bankOffsets[(f 0).host.bank.toNat] + i) →
        (∀ n, (f 800).mem.readTrig n a = (f 0).mem.readTrig n a) ∧
        ∀ m, (f 800).mem.readPitch m a = (f 0).mem.readPitch m a)) ∧
    ∀ k, f (800 + k) = f 800 ∧ (f 800).host.eraseCount = 0

/-- R263: RDREG loads the register view and changes nothing else; a reserved number loads 0 and sets cmdErr. -/
def Obligations.RdregLoadsTheView : Prop :=
  (∀ r : BitVec 5, encode (.rdreg (decodeReg r)) = 0xD0000000#32 ||| r.setWidth 32) ∧
  (∀ (r : BitVec 5) (s : State), r.toNat ≤ 27 →
    exec (.rdreg (decodeReg r)) s = .next { s with host := { s.host with rdata := s.regView (decodeReg r) } }) ∧
  ∀ (r : BitVec 5) (s : State), 28 ≤ r.toNat →
    exec (.rdreg (decodeReg r)) s = .next { s with host := { s.host with rdata := 0, cmdErr := true } }

/-- R56: the fields of STATUS. -/
def Obligations.StatusFields : Prop :=
  ∀ s : State, (s.regView .status).getLsbD 0 = s.host.play ∧ (s.regView .status).getLsbD 1 = s.host.record ∧
    (s.regView .status).getLsbD 2 = (s.host.record && s.host.eraseHold && !s.host.eraseBlocked) ∧
    (s.regView .status).getLsbD 3 = s.host.eraseBlocked ∧ (s.regView .status).getLsbD 4 = s.host.cmdErr ∧
    (s.regView .status).extractLsb' 5 5 = s.tick.stepIndex ∧
    (s.regView .status).extractLsb' 10 5 = s.tick.prevStepIndex ∧
    (s.regView .status).extractLsb' 15 2 = s.host.bank ∧
    (∀ v : VoiceNo, (s.regView .status).getLsbD (17 + v.val) = s.tick.voices[v].active) ∧
    (s.regView .status).extractLsb' 23 2 = s.host.tapCount ∧ (s.regView .status).extractLsb' 25 1 = s.host.tapSlot ∧
    (s.regView .status).getLsbD 26 = s.tick.prevPlay ∧
    (∀ n : Track, (s.regView .status).getLsbD (27 + n.val) = s.latch.live[n]) ∧
    (s.regView .status).getLsbD 31 = s.latch.step

/-- R55: the layouts of the other registers, by number. -/
def Obligations.RegisterLayouts : Prop :=
  ∀ s : State,
    ((s.regView (decodeReg 1)).getLsbD 0 = s.host.reverse ∧ (s.regView (decodeReg 1)).getLsbD 1 = s.host.mixBlend ∧
      (s.regView (decodeReg 1)).getLsbD 2 = s.host.clickEn ∧ (s.regView (decodeReg 1)).getLsbD 3 = s.host.extTempo ∧
      (s.regView (decodeReg 1)).getLsbD 4 = s.host.tapGate ∧ (s.regView (decodeReg 1)).getLsbD 5 = s.host.eraseHold ∧
      (s.regView (decodeReg 1)).toNat < 2 ^ 6) ∧
    (s.regView (decodeReg 2) = s.tick.tickCounter ∧ s.regView (decodeReg 3) = s.host.stepLength ∧
      s.regView (decodeReg 4) = s.tick.lastStepTick ∧ s.regView (decodeReg 5) = s.host.tapHist[0] ∧
      s.regView (decodeReg 6) = s.host.tapHist[1] ∧ s.regView (decodeReg 7) = s.host.prevTapTick) ∧
    ((s.regView (decodeReg 8)).toNat = s.host.livePitch[0].toNat ∧
      (s.regView (decodeReg 9)).toNat = s.host.livePitch[1].toNat ∧
      (s.regView (decodeReg 10)).toNat = s.host.noiseRate.toNat) ∧
    ((s.regView (decodeReg 11)).toNat =
        s.tick.clickAmp.toNat + 2 ^ 8 * s.tick.clickDiv.toNat + 2 ^ 16 * s.tick.clickInc.toNat ∧
      (s.regView (decodeReg 12)).toNat = s.host.eraseCount.toNat ∧
      (s.regView (decodeReg 13)).toNat = s.tick.sample.toNat ∧
      s.regView (decodeReg 14) = s.tick.clickAcc ∧ s.regView (decodeReg 15) = s.tick.noiseAcc) ∧
    ∀ v : VoiceNo, s.regView (decodeReg (BitVec.ofNat 5 (16 + 2 * v.val))) = s.tick.voices[v].acc ∧
      (s.regView (decodeReg (BitVec.ofNat 5 (17 + 2 * v.val)))).toNat =
        s.tick.voices[v].idx.toNat + 2 ^ 16 * (s.inc v).toNat

/-- R265: RDSEQ loads one slot, zero-extended, with no bank offset, and changes nothing else; the PITCH space of T0 or T1
loads 0 and sets cmdErr. -/
def Obligations.RdseqLoadsOneSlot : Prop :=
  (∀ (sp : BitVec 1) (t : BitVec 2) (a : Slot), encode (.rdseq (decodeSeq sp t a)) =
    0xE0000000#32 ||| (sp.setWidth 32 <<< 12) ||| (t.setWidth 32 <<< 8) ||| a.setWidth 32) ∧
  (∀ (t : BitVec 2) (a : Slot) (s : State), exec (.rdseq (decodeSeq 0 t a)) s =
    .next { s with host := { s.host with rdata := (s.mem.readTrig t.toFin a).setWidth 32 } }) ∧
  (∀ (t : BitVec 2) (m : Melodic) (a : Slot) (s : State), t.toNat = 2 + m.val →
    exec (.rdseq (decodeSeq 1 t a)) s =
      .next { s with host := { s.host with rdata := (s.mem.readPitch m a).setWidth 32 } }) ∧
  ∀ (t : BitVec 2) (a : Slot) (s : State), t.toNat < 2 →
    exec (.rdseq (decodeSeq 1 t a)) s = .next { s with host := { s.host with rdata := 0, cmdErr := true } }

/-- R110, R266: the four kinds of reserved encoding set cmdErr; the two reads also set rdata to 0; no other state changes. -/
def Obligations.ReservedEncodingsOnlyReport : Prop :=
  (∀ (w : Word) (s : State), w.extractLsb' 28 4 = 0xF → decode w = .reservedF ∧
    exec .reservedF s = .next { s with host := { s.host with cmdErr := true } }) ∧
  ∀ (w : Word) (s : State), (decode w).isReserved = true →
    exec (decode w) s = .next { s with host := { s.host with
      cmdErr := true
      rdata := if w.extractLsb' 28 4 = 0xD ∨ w.extractLsb' 28 4 = 0xE then 0 else s.host.rdata } }

/-- R281, R302: cmdErr is set by the reserved encodings only, and no operation clears it. -/
def Obligations.CmdErrIsSticky : Prop :=
  ∀ (i : Instr) (s : State), ∃ t, exec i s = .next t ∧ t.host.cmdErr = (s.host.cmdErr || i.isReserved)

/-! ## Whole-machine rules -/

/-- R262, R40: transport and record are written by PLAY, RECTOGGLE and the erase only, and each keeps "record implies
play". -/
def Obligations.TransportAndRecordWriters : Prop :=
  (∀ (i : Instr) (s : State), (∀ b, i ≠ .play b) → i ≠ .rectoggle →
    (i = .loopiter → ¬(s.host.eraseArmed = true ∧ s.host.eraseCount = 799)) →
    ∃ t, exec i s = .next t ∧ t.host.play = s.host.play ∧ t.host.record = s.host.record) ∧
  ∀ (i : Instr) (s : State), (s.host.record = true → s.host.play = true) →
    ∃ t, exec i s = .next t ∧ (t.host.record = true → t.host.play = true)

/-- R80: the storage is written by a recording TRIG and by the erase only, and by a TRIG only in its own track. -/
def Obligations.StorageWriters : Prop :=
  (∀ (i : Instr) (s : State), (∀ n, i = .trig n → s.host.record = false) →
    (i = .loopiter → ¬(s.host.eraseArmed = true ∧ s.host.eraseCount = 799)) →
    ∃ t, exec i s = .next t ∧ t.mem = s.mem) ∧
  ∀ (n : Track) (s : State), ∃ t, exec (.trig n) s = .next t ∧
    (∀ k a, k ≠ n → t.mem.readTrig k a = s.mem.readTrig k a) ∧
    ∀ (m : Melodic) a, n.val ≠ 2 + m.val → t.mem.readPitch m a = s.mem.readPitch m a

/-- R170, R312: a second TRIG of the same track, or a second STEP, before a TICK changes nothing; and a PLAY 0 then
PLAY 1 before a TICK is not seen by it as a stop: its voices are those of a TICK without them. -/
def Obligations.PulsesMergeBeforeATick : Prop :=
  (∀ (n : Track) (s : State), ∃ t, exec (.trig n) s = .next t ∧ exec (.trig n) t = .next t) ∧
  (∀ s : State, ∃ t, exec .step s = .next t ∧ exec .step t = .next t) ∧
  ∀ s : State, s.host.play = true → ∃ t u x y, exec (.play false) s = .next t ∧ exec (.play true) t = .next u ∧
    exec .tick u = .next x ∧ exec .tick s = .next y ∧ x.tick = y.tick ∧ x.emitted = y.emitted

/-- R82, R83: with the offsets 0, 31, 63, 95 a step's slot lies in 0..126, each bank covers the 32 slots from its
offset, and two banks share a slot only as step 31 of bank 0 and step 0 of bank 1. -/
def Obligations.BankWindows : Prop :=
  ∀ (s : State), s.cfg.bankOffsets = #v[0, 31, 63, 95] → ∀ (b c : BitVec 2) (i j : StepNo),
    ({ s with host := { s.host with bank := b } }.slotOf i).toNat ≤ 126 ∧
    ({ s with host := { s.host with bank := b } }.slotOf i).toNat = i.toNat + [0, 31, 63, 95][b.toNat]! ∧
    (b < c → ({ s with host := { s.host with bank := b } }.slotOf i =
        { s with host := { s.host with bank := c } }.slotOf j ↔ b = 0 ∧ c = 1 ∧ i = 31 ∧ j = 0))

/-- R82 and section 3 of 93: while every bank offset is at most 95, slot 127 stays clear in every track and space. -/
def Obligations.LastSlotIsNeverWritten : Prop :=
  ∀ s : State, (∀ b : Fin 4, s.cfg.bankOffsets[b] ≤ 95) → LastSlotsClear s →
    ∃ t, step s = .next t ∧ LastSlotsClear t

/-! ## The invariant -/

/-- The reset state, under every configuration, meets the invariant. -/
def Obligations.ResetMeetsInv : Prop := (∀ cfg : Config, Inv (State.resetWith cfg)) ∧ Inv State.reset

/-- Every step keeps the invariant: the voices inside their tables, the time base at rest between TICKs, a positive step
length, the tap history, the click envelope, "record implies play", the erase counter, one emitted byte per TICK, and
the canonical form of the storage. -/
def Obligations.EveryStepKeepsInv : Prop := ∀ s t : State, Inv s → step s = .next t → Inv t
end

