-- ==== Sys2Proof/Laws/Config.lean ====
section
/-! SUPPORT. What an accepted configuration guarantees (`spec/00_scope.md` R9). -/

namespace Sys2Proof

/-- The checks an accepted configuration has passed (R9). -/
theorem Config.checks (c : Config) :
    c.lengthsBounded = true ∧ c.tablesLongEnough = true ∧ c.clickTableNonempty = true ∧ c.noiseTableNonempty = true ∧
      c.routingLegal = true ∧ c.clickPitchesOrdered = true ∧ c.offsetsInRange = true ∧ c.stepLengthPositive = true := by
  have h := c.ok
  simp only [ConfigData.valid, Bool.and_eq_true] at h
  obtain ⟨⟨⟨⟨⟨⟨⟨h1, h2⟩, h3⟩, h4⟩, h5⟩, h6⟩, h7⟩, h8⟩ := h
  exact ⟨h1, h2, h3, h4, h5, h6, h7, h8⟩

/-- Every LEN[v] is at most 64511 (R9). -/
theorem Config.len_le (c : Config) (v : VoiceNo) : c.len[v] ≤ maxLen := by
  have h := c.checks.1
  simp only [ConfigData.lengthsBounded, List.all_eq_true, decide_eq_true_eq] at h
  exact h v (List.mem_finRange v)

/-- Every voice's table holds LEN[v] + 1 entries (R9). -/
theorem Config.table_length (c : Config) (v : VoiceNo) : c.len[v] + 1 ≤ (c.table v).length := by
  have h := c.checks.2.1
  simp only [ConfigData.tablesLongEnough, List.all_eq_true, decide_eq_true_eq] at h
  exact h v (List.mem_finRange v)

/-- Both oscillator tables hold an entry (R9). -/
theorem Config.click_noise_pos (c : Config) : 0 < c.clickTable.length ∧ 0 < c.noiseTable.length := by
  have h3 := c.checks.2.2.1
  have h4 := c.checks.2.2.2.1
  simp only [ConfigData.clickTableNonempty, ConfigData.noiseTableNonempty, decide_eq_true_eq] at h3 h4
  omega

/-- Every bank offset leaves 32 slots (R82). -/
theorem Config.offset_le (c : Config) (b : Fin 4) : c.bankOffsets[b] ≤ 96 := by
  have h := c.checks.2.2.2.2.2.2.1
  simp only [ConfigData.offsetsInRange, List.all_eq_true, decide_eq_true_eq] at h
  have := h b (List.mem_finRange b)
  omega

/-- The step length at reset is positive (R33). -/
theorem Config.stepLengthReset_pos (c : Config) : 0 < c.stepLengthReset.toNat := by
  have h := c.checks.2.2.2.2.2.2.2
  simpa [ConfigData.stepLengthPositive, BitVec.lt_def] using h

end Sys2Proof
end

