-- ==== Sys2Proof/Laws/Encoding.lean ====
section
/-! SUPPORT. Small lemmas for the encoder and the decoder: a field of a concatenation is a field of one of its parts,
and the selectors round-trip. -/

namespace Sys2Proof

/-- A field that lies in the low part of a concatenation. -/
theorem extract_append_low {n m : Nat} (x : BitVec n) (y : BitVec m) (lo len : Nat) (h : lo + len ≤ m) :
    (x ++ y).extractLsb' lo len = y.extractLsb' lo len := by
  apply BitVec.eq_of_getLsbD_eq
  intro i hi
  simp only [BitVec.getLsbD_extractLsb', BitVec.getLsbD_append, hi, decide_true, Bool.true_and]
  rw [if_pos (by omega)]

/-- A field that lies in the high part of a concatenation. -/
theorem extract_append_high {n m : Nat} (x : BitVec n) (y : BitVec m) (lo len : Nat) (h : m ≤ lo) :
    (x ++ y).extractLsb' lo len = x.extractLsb' (lo - m) len := by
  apply BitVec.eq_of_getLsbD_eq
  intro i hi
  simp only [BitVec.getLsbD_extractLsb', BitVec.getLsbD_append, hi, decide_true, Bool.true_and]
  rw [if_neg (by omega)]
  congr 1
  omega

/-- The whole of a vector as a field. -/
theorem extract_all {n : Nat} (x : BitVec n) : x.extractLsb' 0 n = x := by simp

/-- Bit 0 of a concatenation with a nonempty low part. -/
theorem bit0_append {n m : Nat} (x : BitVec n) (y : BitVec m) (h : 0 < m) : (x ++ y).getLsbD 0 = y.getLsbD 0 := by
  rw [BitVec.getLsbD_append, if_pos h]

/-- A concatenation as a number. -/
theorem append_toNat {n m : Nat} (x : BitVec n) (y : BitVec m) : (x ++ y).toNat = x.toNat * 2 ^ m + y.toNat := by
  rw [BitVec.toNat_append, ← Nat.shiftLeft_add_eq_or_of_lt y.isLt, Nat.shiftLeft_eq]

/-- The bits of the opcode field. -/
theorem opField_bit {w : Word} {op : BitVec 4} (h : opField w = op) {j : Nat} (hj : j < 4) :
    w.getLsbD (28 + j) = op.getLsbD j := by
  have := congrArg (fun x => x.getLsbD j) h
  simpa [opField, BitVec.getLsbD_extractLsb', hj] using this

/-- The sixteen values of the opcode field, for a case analysis (R107). -/
theorem opcode_cases (op : BitVec 4) : op = 0 ∨ op = 1 ∨ op = 2 ∨ op = 3 ∨ op = 4 ∨ op = 5 ∨ op = 6 ∨ op = 7 ∨
    op = 8 ∨ op = 9 ∨ op = 10 ∨ op = 11 ∨ op = 12 ∨ op = 13 ∨ op = 14 ∨ op = 15 := by revert op; decide

/-- A flag selector round-trips exactly when it is well-formed (R105). -/
theorem decodeFlag_encodeFlag {f : FlagSel} (h : f.wf = true) : decodeFlag (encodeFlag f) = f := by
  cases f <;> try rfl
  next id => revert id; decide

/-- A register selector round-trips exactly when it is well-formed (R55). -/
theorem decodeReg_encodeReg {r : RegSel} (h : r.wf = true) : decodeReg (encodeReg r) = r := by
  cases r <;> try rfl
  · next v => revert v; decide
  · next v => revert v; decide
  · next r => revert r; decide

/-- A slot selector round-trips exactly when it is well-formed (R106). -/
theorem decodeSeq_encodeSeq {q : SeqSel} (h : q.wf = true) :
    decodeSeq (encodeSeq q).1 (encodeSeq q).2.1 (encodeSeq q).2.2 = q := by
  cases q with
  | trig t a => rfl
  | pitch m a => fin_cases m <;> rfl
  | reserved t a =>
    have ht : t.toNat < 2 := by simpa [SeqSel.wf] using h
    have : ∀ t : BitVec 2, t.toNat < 2 → t = 0 ∨ t = 1 := by decide
    rcases this t ht with rfl | rfl <;> rfl

/-- The other way round, for the raw fields of a word. -/
theorem encodeFlag_decodeFlag (id : BitVec 4) : encodeFlag (decodeFlag id) = id := by revert id; decide

theorem encodeReg_decodeReg (r : BitVec 5) : encodeReg (decodeReg r) = r := by revert r; decide

theorem encodeSeq_decodeSeq (sp : BitVec 1) (t : BitVec 2) (a : Slot) :
    encodeSeq (decodeSeq sp t a) = (sp, t, a) := by
  have hsp : ∀ sp : BitVec 1, sp = 0 ∨ sp = 1 := by decide
  have ht : ∀ t : BitVec 2, t = 0 ∨ t = 1 ∨ t = 2 ∨ t = 3 := by decide
  rcases hsp sp with rfl | rfl
  · rfl
  · rcases ht t with rfl | rfl | rfl | rfl <;> rfl

/-- Which raw fields are reserved (R105, R106, R110). -/
theorem setflag_isReserved (id : BitVec 4) (b : Bool) :
    (Instr.setflag (decodeFlag id) b).isReserved = decide (6 ≤ id.toNat) := by revert id b; decide

theorem rdreg_isReserved (r : BitVec 5) : (Instr.rdreg (decodeReg r)).isReserved = decide (28 ≤ r.toNat) := by
  revert r; decide

theorem rdseq_isReserved (sp : BitVec 1) (t : BitVec 2) (a : Slot) :
    (Instr.rdseq (decodeSeq sp t a)).isReserved = decide (sp = 1 ∧ t.toNat < 2) := by
  have hsp : ∀ sp : BitVec 1, sp = 0 ∨ sp = 1 := by decide
  have ht : ∀ t : BitVec 2, t = 0 ∨ t = 1 ∨ t = 2 ∨ t = 3 := by decide
  rcases hsp sp with rfl | rfl
  · rfl
  · rcases ht t with rfl | rfl | rfl | rfl <;> rfl

/-- Raw fields decode to well-formed selectors (R107). -/
theorem decodeFlag_wf (id : BitVec 4) : (decodeFlag id).wf = true := by revert id; decide

theorem decodeReg_wf (r : BitVec 5) : (decodeReg r).wf = true := by revert r; decide

theorem decodeSeq_wf (sp : BitVec 1) (t : BitVec 2) (a : Slot) : (decodeSeq sp t a).wf = true := by
  have hsp : ∀ sp : BitVec 1, sp = 0 ∨ sp = 1 := by decide
  have ht : ∀ t : BitVec 2, t = 0 ∨ t = 1 ∨ t = 2 ∨ t = 3 := by decide
  rcases hsp sp with rfl | rfl
  · rfl
  · rcases ht t with rfl | rfl | rfl | rfl <;> rfl

end Sys2Proof
end

