-- ==== Sys2Proof/Laws/State.lean ====
section
/-! SUPPORT. What each named update leaves alone and what it writes, field by field, so that no later proof unfolds a
record update. -/

namespace Sys2Proof.Machine

variable (s : State)

/-! ## Emission and errors -/

@[simp] theorem emit_cfg (b : Byte) : (s.emit b).cfg = s.cfg := rfl
@[simp] theorem emit_tick (b : Byte) : (s.emit b).tick = s.tick := rfl
@[simp] theorem emit_host (b : Byte) : (s.emit b).host = s.host := rfl
@[simp] theorem emit_latch (b : Byte) : (s.emit b).latch = s.latch := rfl
@[simp] theorem emit_mem (b : Byte) : (s.emit b).mem = s.mem := rfl
@[simp] theorem emit_pending (b : Byte) : (s.emit b).pending = s.pending := rfl
@[simp] theorem emit_emitted (b : Byte) : (s.emit b).emitted = s.emitted ++ [b] := rfl

@[simp] theorem commandError_cfg : (commandError s).cfg = s.cfg := rfl
@[simp] theorem commandError_tick : (commandError s).tick = s.tick := rfl
@[simp] theorem commandError_host : (commandError s).host = { s.host with cmdErr := true } := rfl
@[simp] theorem commandError_latch : (commandError s).latch = s.latch := rfl
@[simp] theorem commandError_mem : (commandError s).mem = s.mem := rfl
@[simp] theorem commandError_pending : (commandError s).pending = s.pending := rfl
@[simp] theorem commandError_emitted : (commandError s).emitted = s.emitted := rfl

@[simp] theorem rejectRead_cfg : (rejectRead s).cfg = s.cfg := rfl
@[simp] theorem rejectRead_tick : (rejectRead s).tick = s.tick := rfl
@[simp] theorem rejectRead_host : (rejectRead s).host = { s.host with rdata := 0, cmdErr := true } := rfl
@[simp] theorem rejectRead_latch : (rejectRead s).latch = s.latch := rfl
@[simp] theorem rejectRead_mem : (rejectRead s).mem = s.mem := rfl
@[simp] theorem rejectRead_pending : (rejectRead s).pending = s.pending := rfl
@[simp] theorem rejectRead_emitted : (rejectRead s).emitted = s.emitted := rfl

@[simp] theorem loadRdata_cfg (w : Word) : (loadRdata w s).cfg = s.cfg := rfl
@[simp] theorem loadRdata_tick (w : Word) : (loadRdata w s).tick = s.tick := rfl
@[simp] theorem loadRdata_host (w : Word) : (loadRdata w s).host = { s.host with rdata := w } := rfl
@[simp] theorem loadRdata_latch (w : Word) : (loadRdata w s).latch = s.latch := rfl
@[simp] theorem loadRdata_mem (w : Word) : (loadRdata w s).mem = s.mem := rfl
@[simp] theorem loadRdata_pending (w : Word) : (loadRdata w s).pending = s.pending := rfl
@[simp] theorem loadRdata_emitted (w : Word) : (loadRdata w s).emitted = s.emitted := rfl

/-! ## Time base -/

@[simp] theorem advanceCounter_tick :
    (advanceCounter s).tick = { s.tick with tickCounter := s.tick.tickCounter + 1 } := rfl
@[simp] theorem advanceCounter_cfg : (advanceCounter s).cfg = s.cfg := rfl
@[simp] theorem advanceCounter_host : (advanceCounter s).host = s.host := rfl
@[simp] theorem advanceCounter_latch : (advanceCounter s).latch = s.latch := rfl
@[simp] theorem advanceCounter_mem : (advanceCounter s).mem = s.mem := rfl
@[simp] theorem advanceCounter_pending : (advanceCounter s).pending = s.pending := rfl
@[simp] theorem advanceCounter_emitted : (advanceCounter s).emitted = s.emitted := rfl

@[simp] theorem advanceStep_stepIndex : (advanceStep s).tick.stepIndex = s.tick.stepIndex + 1 := rfl
@[simp] theorem advanceStep_lastStepTick : (advanceStep s).tick.lastStepTick = s.tick.tickCounter := rfl
@[simp] theorem stoppedBranch_stepIndex : (stoppedBranch s).tick.stepIndex = 31 := rfl
@[simp] theorem stoppedBranch_lastStepTick : (stoppedBranch s).tick.lastStepTick = 0 := rfl

/-- The time base writes the step index and the last step tick, nothing else (R131 to R134). -/
theorem timeBase_frame :
    timeBase s = { s with tick := { s.tick with
      stepIndex := (timeBase s).tick.stepIndex, lastStepTick := (timeBase s).tick.lastStepTick } } := by
  unfold timeBase externalTempo internalTempo
  split
  · split <;> split <;> rfl
  · rfl

@[simp] theorem timeBase_cfg : (timeBase s).cfg = s.cfg := by rw [timeBase_frame]
@[simp] theorem timeBase_host : (timeBase s).host = s.host := by rw [timeBase_frame]
@[simp] theorem timeBase_latch : (timeBase s).latch = s.latch := by rw [timeBase_frame]
@[simp] theorem timeBase_mem : (timeBase s).mem = s.mem := by rw [timeBase_frame]
@[simp] theorem timeBase_pending : (timeBase s).pending = s.pending := by rw [timeBase_frame]
@[simp] theorem timeBase_emitted : (timeBase s).emitted = s.emitted := by rw [timeBase_frame]
@[simp] theorem timeBase_tickCounter : (timeBase s).tick.tickCounter = s.tick.tickCounter := by rw [timeBase_frame]
@[simp] theorem timeBase_prevStepIndex : (timeBase s).tick.prevStepIndex = s.tick.prevStepIndex := by
  rw [timeBase_frame]
@[simp] theorem timeBase_prevPlay : (timeBase s).tick.prevPlay = s.tick.prevPlay := by rw [timeBase_frame]
@[simp] theorem timeBase_voices : (timeBase s).tick.voices = s.tick.voices := by rw [timeBase_frame]
@[simp] theorem timeBase_pitchedInc : (timeBase s).tick.pitchedInc = s.tick.pitchedInc := by rw [timeBase_frame]
@[simp] theorem timeBase_clickAcc : (timeBase s).tick.clickAcc = s.tick.clickAcc := by rw [timeBase_frame]
@[simp] theorem timeBase_clickInc : (timeBase s).tick.clickInc = s.tick.clickInc := by rw [timeBase_frame]
@[simp] theorem timeBase_clickAmp : (timeBase s).tick.clickAmp = s.tick.clickAmp := by rw [timeBase_frame]
@[simp] theorem timeBase_clickDiv : (timeBase s).tick.clickDiv = s.tick.clickDiv := by rw [timeBase_frame]
@[simp] theorem timeBase_noiseAcc : (timeBase s).tick.noiseAcc = s.tick.noiseAcc := by rw [timeBase_frame]
@[simp] theorem timeBase_sample : (timeBase s).tick.sample = s.tick.sample := by rw [timeBase_frame]

/-! ## Click envelope -/

/-- The click envelope writes the click pitch, amplitude and prescaler, nothing else (R137, R138). -/
theorem clickEnvelope_frame (edge : Bool) :
    clickEnvelope edge s = { s with tick := { s.tick with
      clickInc := (clickEnvelope edge s).tick.clickInc
      clickAmp := (clickEnvelope edge s).tick.clickAmp
      clickDiv := (clickEnvelope edge s).tick.clickDiv } } := by
  unfold clickEnvelope clickDecay
  split
  · rfl
  · split <;> rfl

section
variable (edge : Bool)
@[simp] theorem clickEnvelope_cfg : (clickEnvelope edge s).cfg = s.cfg := by rw [clickEnvelope_frame]
@[simp] theorem clickEnvelope_host : (clickEnvelope edge s).host = s.host := by rw [clickEnvelope_frame]
@[simp] theorem clickEnvelope_latch : (clickEnvelope edge s).latch = s.latch := by rw [clickEnvelope_frame]
@[simp] theorem clickEnvelope_mem : (clickEnvelope edge s).mem = s.mem := by rw [clickEnvelope_frame]
@[simp] theorem clickEnvelope_pending : (clickEnvelope edge s).pending = s.pending := by rw [clickEnvelope_frame]
@[simp] theorem clickEnvelope_emitted : (clickEnvelope edge s).emitted = s.emitted := by rw [clickEnvelope_frame]
@[simp] theorem clickEnvelope_tickCounter : (clickEnvelope edge s).tick.tickCounter = s.tick.tickCounter := by
  rw [clickEnvelope_frame]
@[simp] theorem clickEnvelope_lastStepTick : (clickEnvelope edge s).tick.lastStepTick = s.tick.lastStepTick := by
  rw [clickEnvelope_frame]
@[simp] theorem clickEnvelope_stepIndex : (clickEnvelope edge s).tick.stepIndex = s.tick.stepIndex := by
  rw [clickEnvelope_frame]
@[simp] theorem clickEnvelope_prevStepIndex : (clickEnvelope edge s).tick.prevStepIndex = s.tick.prevStepIndex := by
  rw [clickEnvelope_frame]
@[simp] theorem clickEnvelope_prevPlay : (clickEnvelope edge s).tick.prevPlay = s.tick.prevPlay := by
  rw [clickEnvelope_frame]
@[simp] theorem clickEnvelope_voices : (clickEnvelope edge s).tick.voices = s.tick.voices := by
  rw [clickEnvelope_frame]
@[simp] theorem clickEnvelope_pitchedInc : (clickEnvelope edge s).tick.pitchedInc = s.tick.pitchedInc := by
  rw [clickEnvelope_frame]
@[simp] theorem clickEnvelope_clickAcc : (clickEnvelope edge s).tick.clickAcc = s.tick.clickAcc := by
  rw [clickEnvelope_frame]
@[simp] theorem clickEnvelope_noiseAcc : (clickEnvelope edge s).tick.noiseAcc = s.tick.noiseAcc := by
  rw [clickEnvelope_frame]
@[simp] theorem clickEnvelope_sample : (clickEnvelope edge s).tick.sample = s.tick.sample := by
  rw [clickEnvelope_frame]
end

/-! ## Sequencer and voices -/

section
variable (edge stop : Bool)
@[simp] theorem loadPitches_tick :
    (loadPitches edge s).tick = { s.tick with pitchedInc := Vector.ofFn fun m => s.nextPitch edge m } := rfl
@[simp] theorem loadPitches_cfg : (loadPitches edge s).cfg = s.cfg := rfl
@[simp] theorem loadPitches_host : (loadPitches edge s).host = s.host := rfl
@[simp] theorem loadPitches_latch : (loadPitches edge s).latch = s.latch := rfl
@[simp] theorem loadPitches_mem : (loadPitches edge s).mem = s.mem := rfl
@[simp] theorem loadPitches_pending : (loadPitches edge s).pending = s.pending := rfl
@[simp] theorem loadPitches_emitted : (loadPitches edge s).emitted = s.emitted := rfl

@[simp] theorem voiceStage_tick : (voiceStage edge stop s).tick = { s.tick with
    voices := Vector.ofFn fun v => (s.tick.voices[v]).next stop (s.voiceTrig edge v) (s.inc v) s.cfg.len[v] } := rfl
@[simp] theorem voiceStage_cfg : (voiceStage edge stop s).cfg = s.cfg := rfl
@[simp] theorem voiceStage_host : (voiceStage edge stop s).host = s.host := rfl
@[simp] theorem voiceStage_latch : (voiceStage edge stop s).latch = s.latch := rfl
@[simp] theorem voiceStage_mem : (voiceStage edge stop s).mem = s.mem := rfl
@[simp] theorem voiceStage_pending : (voiceStage edge stop s).pending = s.pending := rfl
@[simp] theorem voiceStage_emitted : (voiceStage edge stop s).emitted = s.emitted := rfl
end

/-! ## Mixer and end of tick -/

@[simp] theorem advanceOscillators_tick : (advanceOscillators s).tick = { s.tick with
    clickAcc := s.tick.clickAcc + s.tick.clickInc.setWidth 32
    noiseAcc := s.tick.noiseAcc + s.host.noiseRate.setWidth 32 } := rfl
@[simp] theorem advanceOscillators_cfg : (advanceOscillators s).cfg = s.cfg := rfl
@[simp] theorem advanceOscillators_host : (advanceOscillators s).host = s.host := rfl
@[simp] theorem advanceOscillators_latch : (advanceOscillators s).latch = s.latch := rfl
@[simp] theorem advanceOscillators_mem : (advanceOscillators s).mem = s.mem := rfl
@[simp] theorem advanceOscillators_pending : (advanceOscillators s).pending = s.pending := rfl
@[simp] theorem advanceOscillators_emitted : (advanceOscillators s).emitted = s.emitted := rfl

@[simp] theorem emitSample_tick : (emitSample s).tick = { s.tick with sample := outByte s.preFold } := rfl
@[simp] theorem emitSample_cfg : (emitSample s).cfg = s.cfg := rfl
@[simp] theorem emitSample_host : (emitSample s).host = s.host := rfl
@[simp] theorem emitSample_latch : (emitSample s).latch = s.latch := rfl
@[simp] theorem emitSample_mem : (emitSample s).mem = s.mem := rfl
@[simp] theorem emitSample_pending : (emitSample s).pending = s.pending := rfl
@[simp] theorem emitSample_emitted : (emitSample s).emitted = s.emitted ++ [outByte s.preFold] := rfl

@[simp] theorem endOfTick_tick :
    (endOfTick s).tick = { s.tick with prevStepIndex := s.tick.stepIndex, prevPlay := s.host.play } := rfl
@[simp] theorem endOfTick_cfg : (endOfTick s).cfg = s.cfg := rfl
@[simp] theorem endOfTick_host : (endOfTick s).host = s.host := rfl
@[simp] theorem endOfTick_latch :
    (endOfTick s).latch = { live := Vector.replicate 4 false, step := false } := rfl
@[simp] theorem endOfTick_mem : (endOfTick s).mem = s.mem := rfl
@[simp] theorem endOfTick_pending : (endOfTick s).pending = s.pending := rfl
@[simp] theorem endOfTick_emitted : (endOfTick s).emitted = s.emitted := rfl

/-! ## Host commands -/

@[simp] theorem setTransport_host (b : Bool) : (setTransport b s).host =
    { s.host with play := b, record := b && s.host.record, eraseCount := 0 } := rfl
@[simp] theorem toggleRecord_host : (toggleRecord s).host =
    { s.host with record := !s.host.record, play := s.host.play || !s.host.record, eraseCount := 0 } := rfl
@[simp] theorem setTransport_cfg (b : Bool) : (setTransport b s).cfg = s.cfg := rfl
@[simp] theorem setTransport_tick (b : Bool) : (setTransport b s).tick = s.tick := rfl
@[simp] theorem setTransport_latch (b : Bool) : (setTransport b s).latch = s.latch := rfl
@[simp] theorem setTransport_mem (b : Bool) : (setTransport b s).mem = s.mem := rfl
@[simp] theorem setTransport_pending (b : Bool) : (setTransport b s).pending = s.pending := rfl
@[simp] theorem setTransport_emitted (b : Bool) : (setTransport b s).emitted = s.emitted := rfl
@[simp] theorem toggleRecord_cfg : (toggleRecord s).cfg = s.cfg := rfl
@[simp] theorem toggleRecord_tick : (toggleRecord s).tick = s.tick := rfl
@[simp] theorem toggleRecord_latch : (toggleRecord s).latch = s.latch := rfl
@[simp] theorem toggleRecord_mem : (toggleRecord s).mem = s.mem := rfl
@[simp] theorem toggleRecord_pending : (toggleRecord s).pending = s.pending := rfl
@[simp] theorem toggleRecord_emitted : (toggleRecord s).emitted = s.emitted := rfl
@[simp] theorem countHold_host : (countHold s).host = { s.host with eraseCount := s.host.eraseCount + 1 } := rfl
@[simp] theorem countHold_cfg : (countHold s).cfg = s.cfg := rfl
@[simp] theorem countHold_mem : (countHold s).mem = s.mem := rfl
@[simp] theorem eraseBank_host :
    (eraseBank s).host = { s.host with eraseCount := 0, eraseBlocked := true, play := true } := rfl
@[simp] theorem eraseBank_mem : (eraseBank s).mem = s.mem.clearSlots s.bankSlots := rfl
@[simp] theorem setLive_latch (n : Track) :
    (setLive n s).latch = { s.latch with live := s.latch.live.set n true } := rfl
@[simp] theorem setLive_mem (n : Track) : (setLive n s).mem = s.mem := rfl
@[simp] theorem setLive_host (n : Track) : (setLive n s).host = s.host := rfl

/-- TAP writes the tap registers and the step length, nothing else (R141). -/
theorem tapEvent_frame : tapEvent s = { s with host := { s.host with
    tapHist := (tapEvent s).host.tapHist, tapSlot := (tapEvent s).host.tapSlot
    tapCount := (tapEvent s).host.tapCount, prevTapTick := (tapEvent s).host.prevTapTick
    stepLength := (tapEvent s).host.stepLength } } := by
  unfold tapEvent applyTaps
  split
  · split <;> rfl
  · rfl

/-- TRIG writes the live latch and the storage, nothing else (R170). -/
theorem liveTrigger_frame (n : Track) : liveTrigger n s = { s with
    latch := { s.latch with live := s.latch.live.set n true }, mem := (liveTrigger n s).mem } := by
  unfold liveTrigger
  split <;> rfl

/-- LOOPITER writes the storage, the erase state and play, nothing else (R242). -/
theorem loopIteration_frame : loopIteration s = { s with
    mem := (loopIteration s).mem
    host := { s.host with
      eraseCount := (loopIteration s).host.eraseCount, eraseBlocked := (loopIteration s).host.eraseBlocked
      play := (loopIteration s).host.play } } := by
  unfold loopIteration
  split
  · split <;> rfl
  · rfl

/-- SETFLAG writes the mode flags, the erase state and cmdErr, nothing else (R261). -/
theorem setFlag_frame (id : FlagSel) (b : Bool) : setFlag id b s = { s with host := { s.host with
    reverse := (setFlag id b s).host.reverse, mixBlend := (setFlag id b s).host.mixBlend
    clickEn := (setFlag id b s).host.clickEn, extTempo := (setFlag id b s).host.extTempo
    tapGate := (setFlag id b s).host.tapGate, eraseHold := (setFlag id b s).host.eraseHold
    eraseCount := (setFlag id b s).host.eraseCount, eraseBlocked := (setFlag id b s).host.eraseBlocked
    cmdErr := (setFlag id b s).host.cmdErr } } := by
  cases id <;> try rfl
  cases b <;> rfl

/-- RDREG writes rdata and cmdErr, nothing else (R263). -/
theorem readRegister_frame (r : RegSel) : readRegister r s = { s with host := { s.host with
    rdata := (readRegister r s).host.rdata, cmdErr := (readRegister r s).host.cmdErr } } := by
  cases r <;> rfl

/-- RDSEQ writes rdata and cmdErr, nothing else (R265). -/
theorem readSlot_frame (q : SeqSel) : readSlot q s = { s with host := { s.host with
    rdata := (readSlot q s).host.rdata, cmdErr := (readSlot q s).host.cmdErr } } := by
  cases q <;> rfl

/-! The fields that a host command never writes, from the frames. -/

@[simp] theorem tapEvent_cfg : (tapEvent s).cfg = s.cfg := by rw [tapEvent_frame]
@[simp] theorem tapEvent_tick : (tapEvent s).tick = s.tick := by rw [tapEvent_frame]
@[simp] theorem tapEvent_latch : (tapEvent s).latch = s.latch := by rw [tapEvent_frame]
@[simp] theorem tapEvent_mem : (tapEvent s).mem = s.mem := by rw [tapEvent_frame]
@[simp] theorem tapEvent_pending : (tapEvent s).pending = s.pending := by rw [tapEvent_frame]
@[simp] theorem tapEvent_emitted : (tapEvent s).emitted = s.emitted := by rw [tapEvent_frame]
@[simp] theorem liveTrigger_cfg (n : Track) : (liveTrigger n s).cfg = s.cfg := by rw [liveTrigger_frame]
@[simp] theorem liveTrigger_tick (n : Track) : (liveTrigger n s).tick = s.tick := by rw [liveTrigger_frame]
@[simp] theorem liveTrigger_host (n : Track) : (liveTrigger n s).host = s.host := by rw [liveTrigger_frame]
@[simp] theorem liveTrigger_pending (n : Track) : (liveTrigger n s).pending = s.pending := by rw [liveTrigger_frame]
@[simp] theorem liveTrigger_emitted (n : Track) : (liveTrigger n s).emitted = s.emitted := by rw [liveTrigger_frame]
@[simp] theorem liveTrigger_latch (n : Track) :
    (liveTrigger n s).latch = { s.latch with live := s.latch.live.set n true } := by rw [liveTrigger_frame]
@[simp] theorem loopIteration_cfg : (loopIteration s).cfg = s.cfg := by rw [loopIteration_frame]
@[simp] theorem loopIteration_tick : (loopIteration s).tick = s.tick := by rw [loopIteration_frame]
@[simp] theorem loopIteration_latch : (loopIteration s).latch = s.latch := by rw [loopIteration_frame]
@[simp] theorem loopIteration_pending : (loopIteration s).pending = s.pending := by rw [loopIteration_frame]
@[simp] theorem loopIteration_emitted : (loopIteration s).emitted = s.emitted := by rw [loopIteration_frame]
@[simp] theorem setFlag_cfg (id : FlagSel) (b : Bool) : (setFlag id b s).cfg = s.cfg := by rw [setFlag_frame]
@[simp] theorem setFlag_tick (id : FlagSel) (b : Bool) : (setFlag id b s).tick = s.tick := by rw [setFlag_frame]
@[simp] theorem setFlag_latch (id : FlagSel) (b : Bool) : (setFlag id b s).latch = s.latch := by rw [setFlag_frame]
@[simp] theorem setFlag_mem (id : FlagSel) (b : Bool) : (setFlag id b s).mem = s.mem := by rw [setFlag_frame]
@[simp] theorem setFlag_pending (id : FlagSel) (b : Bool) : (setFlag id b s).pending = s.pending := by rw [setFlag_frame]
@[simp] theorem setFlag_emitted (id : FlagSel) (b : Bool) : (setFlag id b s).emitted = s.emitted := by rw [setFlag_frame]
@[simp] theorem readRegister_cfg (r : RegSel) : (readRegister r s).cfg = s.cfg := by rw [readRegister_frame]
@[simp] theorem readRegister_tick (r : RegSel) : (readRegister r s).tick = s.tick := by rw [readRegister_frame]
@[simp] theorem readRegister_latch (r : RegSel) : (readRegister r s).latch = s.latch := by rw [readRegister_frame]
@[simp] theorem readRegister_mem (r : RegSel) : (readRegister r s).mem = s.mem := by rw [readRegister_frame]
@[simp] theorem readRegister_pending (r : RegSel) : (readRegister r s).pending = s.pending := by rw [readRegister_frame]
@[simp] theorem readRegister_emitted (r : RegSel) : (readRegister r s).emitted = s.emitted := by rw [readRegister_frame]
@[simp] theorem readSlot_cfg (q : SeqSel) : (readSlot q s).cfg = s.cfg := by rw [readSlot_frame]
@[simp] theorem readSlot_tick (q : SeqSel) : (readSlot q s).tick = s.tick := by rw [readSlot_frame]
@[simp] theorem readSlot_latch (q : SeqSel) : (readSlot q s).latch = s.latch := by rw [readSlot_frame]
@[simp] theorem readSlot_mem (q : SeqSel) : (readSlot q s).mem = s.mem := by rw [readSlot_frame]
@[simp] theorem readSlot_pending (q : SeqSel) : (readSlot q s).pending = s.pending := by rw [readSlot_frame]
@[simp] theorem readSlot_emitted (q : SeqSel) : (readSlot q s).emitted = s.emitted := by rw [readSlot_frame]

end Sys2Proof.Machine
end

