-- ==== Sys2Proof/Laws/Memory.lean ====
section
/-! SUPPORT. The laws of the sequencer storage: a read after a write, and that every operation keeps the canonical
form (`spec/20_memory.md` R80, R87). The read laws hold of every store, canonical or not. -/

namespace Sys2Proof.Machine

variable {w : Nat}

/-! ## Reads -/

@[simp] theorem Store.read_nil (k : Nat) : Store.read ([] : Store w) k = 0 := rfl

theorem Store.read_erase (st : Store w) (k j : Nat) :
    Store.read (Store.erase st k) j = if j = k then 0 else Store.read st j := by
  induction st with
  | nil => simp [Store.erase]
  | cons c rest ih =>
    simp only [Store.erase, List.filter_cons] at ih ⊢
    by_cases hc : c.1 = k
    · simp only [hc, bne_self_eq_false, Bool.false_eq_true, if_false, ih, Store.read]
      by_cases hj : j = k
      · simp [hj]
      · simp [hj, Ne.symm hj]
    · simp only [bne_iff_ne, ne_eq, hc, not_false_eq_true, if_true, Store.read, ih]
      by_cases hj : j = k
      · simp [hj, hc]
      · simp [hj]

theorem Store.read_insert (st : Store w) (k j : Nat) (v : BitVec w) (hk : ∀ c ∈ st, c.1 ≠ k) :
    Store.read (Store.insert k v st) j = if j = k then v else Store.read st j := by
  induction st with
  | nil => by_cases hj : j = k <;> simp [Store.insert, Store.read, hj, Ne.symm]
  | cons c rest ih =>
    have hc : c.1 ≠ k := hk c (by simp)
    have ih := ih fun d hd => hk d (by simp [hd])
    simp only [Store.insert]
    split
    · by_cases hj : j = k
      · simp [Store.read, hj]
      · simp [Store.read, hj, Ne.symm hj]
    · simp only [Store.read, ih]
      by_cases hj : j = k
      · simp [hj, hc]
      · simp [hj]

theorem Store.erase_keys (st : Store w) (k : Nat) : ∀ c ∈ Store.erase st k, c.1 ≠ k := by
  intro c hc
  simpa using (List.mem_filter.mp hc).2

/-- A read after a write: the value written at its key, the old value everywhere else. -/
theorem Store.read_write (st : Store w) (k j : Nat) (v : BitVec w) :
    Store.read (Store.write st k v) j = if j = k then v else Store.read st j := by
  unfold Store.write
  split
  · next h => rw [Store.read_erase, h]
  · rw [Store.read_insert _ _ _ _ (Store.erase_keys st k), Store.read_erase]
    split <;> simp_all

theorem Store.read_clear (st : Store w) (ks : List Nat) (j : Nat) :
    Store.read (Store.clear st ks) j = if j ∈ ks then 0 else Store.read st j := by
  induction ks generalizing st with
  | nil => simp [Store.clear]
  | cons k ks ih =>
    have := ih (Store.write st k 0)
    simp only [Store.clear, List.foldl_cons] at this ⊢
    rw [this, Store.read_write]
    by_cases hj : j = k <;> simp [hj]

theorem Store.erase_of_not_mem (st : Store w) (k : Nat) (hk : ∀ c ∈ st, c.1 ≠ k) : Store.erase st k = st := by
  refine List.filter_eq_self.mpr fun c hc => ?_
  simpa using hk c hc

theorem Store.erase_insert (st : Store w) (k : Nat) (v : BitVec w) (hk : ∀ c ∈ st, c.1 ≠ k) :
    Store.erase (Store.insert k v st) k = st := by
  induction st with
  | nil => simp [Store.insert, Store.erase]
  | cons c rest ih =>
    have hc : c.1 ≠ k := hk c (by simp)
    simp only [Store.insert]
    split
    · have := Store.erase_of_not_mem (c :: rest) k hk
      simpa [Store.erase] using this
    · have := ih fun d hd => hk d (by simp [hd])
      simp only [Store.erase] at this ⊢
      simp [hc, this]

/-- Writing the same value again changes nothing (R87), in any store. -/
@[simp] theorem Store.write_write (st : Store w) (k : Nat) (v : BitVec w) :
    Store.write (Store.write st k v) k v = Store.write st k v := by
  unfold Store.write
  split
  · exact Store.erase_of_not_mem _ _ (Store.erase_keys st k)
  · rw [Store.erase_insert _ _ _ (Store.erase_keys st k)]

/-! ## Canonical form -/

theorem Store.wf_iff (n : Nat) (st : Store w) : Store.wf n st = true ↔
    st.Pairwise (fun c d => c.1 < d.1) ∧ ∀ c ∈ st, c.1 < n ∧ c.2 ≠ 0 := by
  simp [Store.wf]

theorem Store.wf_erase {n : Nat} {st : Store w} (h : Store.wf n st = true) (k : Nat) :
    Store.wf n (Store.erase st k) = true := by
  rw [Store.wf_iff] at h ⊢
  exact ⟨h.1.filter _, fun c hc => h.2 c (List.mem_filter.mp hc).1⟩

theorem Store.mem_insert (k : Nat) (v : BitVec w) (st : Store w) (c : Nat × BitVec w) :
    c ∈ Store.insert k v st ↔ c = (k, v) ∨ c ∈ st := by
  induction st with
  | nil => simp [Store.insert]
  | cons d rest ih =>
    simp only [Store.insert]
    split
    · simp
    · simp [ih]; tauto

theorem Store.wf_insert {n k : Nat} {v : BitVec w} {st : Store w} (h : Store.wf n st = true) (hn : k < n)
    (hv : v ≠ 0) (hk : ∀ c ∈ st, c.1 ≠ k) : Store.wf n (Store.insert k v st) = true := by
  rw [Store.wf_iff] at h ⊢
  refine ⟨?_, fun c hc => ?_⟩
  · obtain ⟨hp, -⟩ := h
    induction st with
    | nil => simp [Store.insert]
    | cons d rest ih =>
      obtain ⟨hd, hrest⟩ := List.pairwise_cons.mp hp
      simp only [Store.insert]
      split
      · next hlt =>
        refine List.pairwise_cons.mpr ⟨fun c hc => ?_, hp⟩
        rcases List.mem_cons.mp hc with rfl | hc
        · exact hlt
        · exact lt_trans hlt (hd c hc)
      · next hnlt =>
        refine List.pairwise_cons.mpr ⟨fun c hc => ?_, ih (fun c hc => hk c (by simp [hc])) hrest⟩
        rcases (Store.mem_insert _ _ _ _).mp hc with rfl | hc
        · have := hk d (by simp); simp only; omega
        · exact hd c hc
  · rcases (Store.mem_insert _ _ _ _).mp hc with rfl | hc
    · exact ⟨hn, hv⟩
    · exact h.2 c hc

theorem Store.wf_write {n k : Nat} {st : Store w} (h : Store.wf n st = true) (hn : k < n) (v : BitVec w) :
    Store.wf n (Store.write st k v) = true := by
  unfold Store.write
  split
  · exact Store.wf_erase h k
  · next hv => exact Store.wf_insert (Store.wf_erase h k) hn hv (Store.erase_keys st k)

theorem Store.wf_clear {n : Nat} {st : Store w} (h : Store.wf n st = true) (ks : List Nat)
    (hk : ∀ k ∈ ks, k < n) : Store.wf n (Store.clear st ks) = true := by
  induction ks generalizing st with
  | nil => exact h
  | cons k ks ih =>
    exact ih (Store.wf_write h (hk k (by simp)) 0) fun j hj => hk j (by simp [hj])

/-- Slots of different rows, or different slots of one row, have different keys. -/
theorem slotKey_inj {r r' : Nat} {a a' : Slot} : slotKey r a = slotKey r' a' ↔ r = r' ∧ a = a' := by
  constructor
  · intro h
    have ha := a.isLt
    have ha' := a'.isLt
    simp only [slotKey] at h
    refine ⟨by omega, BitVec.eq_of_toNat_eq (by omega)⟩
  · rintro ⟨rfl, rfl⟩; rfl

theorem slotKey_lt {r n : Nat} (a : Slot) (h : r < n) : slotKey r a < 128 * n := by
  have ha := a.isLt
  simp only [slotKey]; omega

/-! ## The two spaces -/

@[simp] theorem Memory.readTrig_writeTrig (m : Memory) (t u : Track) (a b : Slot) (x : BitVec 1) :
    (m.writeTrig t a x).readTrig u b = if u = t ∧ b = a then x else m.readTrig u b := by
  simp [Memory.readTrig, Memory.writeTrig, Store.read_write, slotKey_inj, Fin.ext_iff]

@[simp] theorem Memory.readPitch_writePitch (m : Memory) (i j : Melodic) (a b : Slot) (x : Half) :
    (m.writePitch i a x).readPitch j b = if j = i ∧ b = a then x else m.readPitch j b := by
  simp only [Memory.readPitch, Memory.writePitch, Store.read_write, slotKey_inj, Fin.ext_iff]

@[simp] theorem Memory.readPitch_writeTrig (m : Memory) (t : Track) (j : Melodic) (a b : Slot) (x : BitVec 1) :
    (m.writeTrig t a x).readPitch j b = m.readPitch j b := rfl

@[simp] theorem Memory.readTrig_writePitch (m : Memory) (i : Melodic) (u : Track) (a b : Slot) (x : Half) :
    (m.writePitch i a x).readTrig u b = m.readTrig u b := rfl

@[simp] theorem Memory.writeTrig_writeTrig (m : Memory) (t : Track) (a : Slot) (x : BitVec 1) :
    (m.writeTrig t a x).writeTrig t a x = m.writeTrig t a x := by simp [Memory.writeTrig]

@[simp] theorem Memory.writePitch_writePitch (m : Memory) (i : Melodic) (a : Slot) (x : Half) :
    (m.writePitch i a x).writePitch i a x = m.writePitch i a x := by simp [Memory.writePitch]

/-- Writes of different spaces commute (R80). -/
theorem Memory.writeTrig_writePitch (m : Memory) (t : Track) (i : Melodic) (a b : Slot) (x : BitVec 1) (p : Half) :
    (m.writePitch i b p).writeTrig t a x = (m.writeTrig t a x).writePitch i b p := rfl

theorem Memory.readTrig_clearSlots (m : Memory) (slots : List Slot) (u : Track) (b : Slot) :
    (m.clearSlots slots).readTrig u b = if b ∈ slots then 0 else m.readTrig u b := by
  have hu := u.isLt
  simp only [Memory.readTrig, Memory.clearSlots, Store.read_clear, List.mem_flatMap, List.mem_range, List.mem_map,
    slotKey_inj]
  congr 1
  simp only [eq_iff_iff]
  constructor
  · rintro ⟨t, -, a, ha, -, rfl⟩; exact ha
  · intro hb; exact ⟨u.val, hu, b, hb, rfl, rfl⟩

theorem Memory.readPitch_clearSlots (m : Memory) (slots : List Slot) (j : Melodic) (b : Slot) :
    (m.clearSlots slots).readPitch j b = if b ∈ slots then 0 else m.readPitch j b := by
  have hj := j.isLt
  simp only [Memory.readPitch, Memory.clearSlots, Store.read_clear, List.mem_flatMap, List.mem_range, List.mem_map,
    slotKey_inj]
  congr 1
  simp only [eq_iff_iff]
  constructor
  · rintro ⟨t, -, a, ha, -, rfl⟩; exact ha
  · intro hb; exact ⟨j.val, hj, b, hb, rfl, rfl⟩

theorem Memory.wf_iff (m : Memory) : m.wf = true ↔ m.trig.wf 512 = true ∧ m.pitch.wf 256 = true := by
  simp [Memory.wf]

theorem Memory.wf_writeTrig {m : Memory} (h : m.wf = true) (t : Track) (a : Slot) (x : BitVec 1) :
    (m.writeTrig t a x).wf = true := by
  rw [Memory.wf_iff] at h ⊢
  exact ⟨Store.wf_write h.1 (slotKey_lt (n := 4) a t.isLt) x, h.2⟩

theorem Memory.wf_writePitch {m : Memory} (h : m.wf = true) (i : Melodic) (a : Slot) (x : Half) :
    (m.writePitch i a x).wf = true := by
  rw [Memory.wf_iff] at h ⊢
  exact ⟨h.1, Store.wf_write h.2 (slotKey_lt (n := 2) a i.isLt) x⟩

theorem Memory.wf_clearSlots {m : Memory} (h : m.wf = true) (slots : List Slot) :
    (m.clearSlots slots).wf = true := by
  rw [Memory.wf_iff] at h ⊢
  refine ⟨Store.wf_clear h.1 _ fun k hk => ?_, Store.wf_clear h.2 _ fun k hk => ?_⟩ <;>
  · obtain ⟨r, hr, hk⟩ := List.mem_flatMap.mp hk
    obtain ⟨a, -, rfl⟩ := List.mem_map.mp hk
    exact slotKey_lt a (List.mem_range.mp hr)

/-- The recorder write keeps the canonical form (R232). -/
theorem recordWrite_wf {s : State} (h : s.mem.wf = true) (n : Track) : (recordWrite n s).mem.wf = true := by
  simp only [recordWrite]
  split
  · exact Memory.wf_writePitch (Memory.wf_writeTrig h _ _ _) _ _ _
  · exact Memory.wf_writeTrig h _ _ _

/-- The erase keeps the canonical form (R236). -/
theorem eraseBank_wf {s : State} (h : s.mem.wf = true) : (eraseBank s).mem.wf = true :=
  Memory.wf_clearSlots h _

theorem resetWith_mem_wf (cfg : Config) : (State.resetWith cfg).mem.wf = true := rfl

end Sys2Proof.Machine
end

