-- ==== Sys2Proof/Laws/Tick.lean ====
section
/-! SUPPORT. What one TICK does to every field, stage by stage (`spec/40_tick.md` R120), and what `exec` answers. -/

namespace Sys2Proof.Machine

variable (s : State)

/-! ## The time base, seen from the start of the TICK -/

@[simp] theorem tickTime_cfg : (tickTime s).cfg = s.cfg := by simp [tickTime]
@[simp] theorem tickTime_host : (tickTime s).host = s.host := by simp [tickTime]
@[simp] theorem tickTime_latch : (tickTime s).latch = s.latch := by simp [tickTime]
@[simp] theorem tickTime_mem : (tickTime s).mem = s.mem := by simp [tickTime]
@[simp] theorem tickTime_pending : (tickTime s).pending = s.pending := by simp [tickTime]
@[simp] theorem tickTime_emitted : (tickTime s).emitted = s.emitted := by simp [tickTime]
@[simp] theorem tickTime_tickCounter : (tickTime s).tick.tickCounter = s.tick.tickCounter + 1 := by simp [tickTime]
@[simp] theorem tickTime_prevStepIndex : (tickTime s).tick.prevStepIndex = s.tick.prevStepIndex := by simp [tickTime]
@[simp] theorem tickTime_voices : (tickTime s).tick.voices = s.tick.voices := by simp [tickTime]
@[simp] theorem tickTime_pitchedInc : (tickTime s).tick.pitchedInc = s.tick.pitchedInc := by simp [tickTime]
@[simp] theorem tickTime_clickAcc : (tickTime s).tick.clickAcc = s.tick.clickAcc := by simp [tickTime]
@[simp] theorem tickTime_clickInc : (tickTime s).tick.clickInc = s.tick.clickInc := by simp [tickTime]
@[simp] theorem tickTime_clickAmp : (tickTime s).tick.clickAmp = s.tick.clickAmp := by simp [tickTime]
@[simp] theorem tickTime_clickDiv : (tickTime s).tick.clickDiv = s.tick.clickDiv := by simp [tickTime]
@[simp] theorem tickTime_noiseAcc : (tickTime s).tick.noiseAcc = s.tick.noiseAcc := by simp [tickTime]

/-- The stopped transport: step 31, last step tick 0 (R133). -/
theorem tickTime_stopped (h : s.host.play = false) :
    (tickTime s).tick.stepIndex = 31 ∧ (tickTime s).tick.lastStepTick = 0 := by
  simp [tickTime, timeBase, h]

/-- Internal tempo: advance when the elapsed ticks exceed the step length (R132). -/
theorem tickTime_internal (hp : s.host.play = true) (he : s.host.extTempo = false) :
    (tickTime s).tick.stepIndex =
        (if s.host.stepLength < s.tick.tickCounter + 1 - s.tick.lastStepTick then s.tick.stepIndex + 1
          else s.tick.stepIndex) ∧
      (tickTime s).tick.lastStepTick =
        (if s.host.stepLength < s.tick.tickCounter + 1 - s.tick.lastStepTick then s.tick.tickCounter + 1
          else s.tick.lastStepTick) := by
  have ht : tickTime s = internalTempo (advanceCounter s) := by simp [tickTime, timeBase, hp, he]
  by_cases h : s.host.stepLength < s.tick.tickCounter + 1 - s.tick.lastStepTick
  · have h' : internalTempo (advanceCounter s) = advanceStep (advanceCounter s) := if_pos h
    rw [ht, h', if_pos h, if_pos h]; exact ⟨rfl, rfl⟩
  · have h' : internalTempo (advanceCounter s) = advanceCounter s := if_neg h
    rw [ht, h', if_neg h, if_neg h]; exact ⟨rfl, rfl⟩

/-- External tempo: advance by one for a set step latch (R134). -/
theorem tickTime_external (hp : s.host.play = true) (he : s.host.extTempo = true) :
    (tickTime s).tick.stepIndex = (if s.latch.step then s.tick.stepIndex + 1 else s.tick.stepIndex) ∧
      (tickTime s).tick.lastStepTick = (if s.latch.step then s.tick.tickCounter + 1 else s.tick.lastStepTick) := by
  cases h : s.latch.step <;> simp [tickTime, timeBase, externalTempo, hp, he, h]

/-! ## The whole TICK, field by field -/

/-- The state the sequencer stage hands to the voices. -/
def tickSequenced : State :=
  loadPitches (tickTime s).stepEdge (clickEnvelope (tickTime s).stepEdge (tickTime s))

theorem tickSound_eq : tickSound s = voiceStage (tickTime s).stepEdge s.stopReset (tickSequenced s) := rfl

@[simp] theorem tickState_cfg : (tickState s).cfg = s.cfg := by
  simp [tickState, mixerStage, tickSound_eq, tickSequenced]
@[simp] theorem tickState_host : (tickState s).host = s.host := by
  simp [tickState, mixerStage, tickSound_eq, tickSequenced]
@[simp] theorem tickState_mem : (tickState s).mem = s.mem := by
  simp [tickState, mixerStage, tickSound_eq, tickSequenced]
@[simp] theorem tickState_pending : (tickState s).pending = s.pending := by
  simp [tickState, mixerStage, tickSound_eq, tickSequenced]
@[simp] theorem tickState_latch :
    (tickState s).latch = { live := Vector.replicate 4 false, step := false } := by simp [tickState]
@[simp] theorem tickState_tickCounter : (tickState s).tick.tickCounter = s.tick.tickCounter + 1 := by
  simp [tickState, mixerStage, tickSound_eq, tickSequenced]
@[simp] theorem tickState_stepIndex : (tickState s).tick.stepIndex = (tickTime s).tick.stepIndex := by
  simp [tickState, mixerStage, tickSound_eq, tickSequenced]
@[simp] theorem tickState_lastStepTick : (tickState s).tick.lastStepTick = (tickTime s).tick.lastStepTick := by
  simp [tickState, mixerStage, tickSound_eq, tickSequenced]
@[simp] theorem tickState_prevStepIndex : (tickState s).tick.prevStepIndex = (tickTime s).tick.stepIndex := by
  simp [tickState, mixerStage, tickSound_eq, tickSequenced]
@[simp] theorem tickState_prevPlay : (tickState s).tick.prevPlay = s.host.play := by
  simp [tickState, mixerStage, tickSound_eq, tickSequenced]
theorem tickState_clickInc : (tickState s).tick.clickInc =
    (clickEnvelope (tickTime s).stepEdge (tickTime s)).tick.clickInc := by
  simp [tickState, mixerStage, tickSound_eq, tickSequenced]
theorem tickState_clickAmp : (tickState s).tick.clickAmp =
    (clickEnvelope (tickTime s).stepEdge (tickTime s)).tick.clickAmp := by
  simp [tickState, mixerStage, tickSound_eq, tickSequenced]
theorem tickState_clickDiv : (tickState s).tick.clickDiv =
    (clickEnvelope (tickTime s).stepEdge (tickTime s)).tick.clickDiv := by
  simp [tickState, mixerStage, tickSound_eq, tickSequenced]
theorem tickState_clickAcc :
    (tickState s).tick.clickAcc = s.tick.clickAcc + (tickState s).tick.clickInc.setWidth 32 := by
  simp [tickState, mixerStage, tickSound_eq, tickSequenced]
theorem tickState_noiseAcc :
    (tickState s).tick.noiseAcc = s.tick.noiseAcc + s.host.noiseRate.setWidth 32 := by
  simp [tickState, mixerStage, tickSound_eq, tickSequenced]

/-- The live and sequenced triggers as the time base leaves them (R161 to R163). -/
theorem tickSequenced_fire (edge : Bool) (t : Track) :
    (tickSequenced s).fire edge t = (tickTime s).fire edge t := by
  simp [tickSequenced, State.fire, State.seqTrig, State.liveTrig, State.playSlot, State.slotOf]

theorem tickSequenced_voiceTrig (edge : Bool) (v : VoiceNo) :
    (tickSequenced s).voiceTrig edge v = (tickTime s).voiceTrig edge v := by
  simp only [State.voiceTrig, tickSequenced_fire]
  simp [tickSequenced]

/-- The increments a TICK leaves (R165, R166). -/
theorem tickState_pitchedInc (m : Melodic) :
    (tickState s).tick.pitchedInc[m] = (tickTime s).nextPitch (tickTime s).stepEdge m := by
  simp [tickState, mixerStage, tickSound_eq, tickSequenced, State.nextPitch, State.seqTrig, State.liveTrig,
    State.playSlot, State.slotOf]

theorem tickState_inc (v : VoiceNo) : (tickState s).inc v = (tickSequenced s).inc v := by
  simp [State.inc, tickState, mixerStage, tickSound_eq, tickSequenced]

/-- Every voice takes one `Voice.next` per TICK, with the increment the TICK leaves (R180 to R183). -/
theorem tickState_voices (v : VoiceNo) :
    (tickState s).tick.voices[v] = (s.tick.voices[v]).next s.stopReset
      ((tickTime s).voiceTrig (tickTime s).stepEdge v) ((tickState s).inc v) s.cfg.len[v] := by
  rw [tickState_inc, ← tickSequenced_voiceTrig]
  simp [tickState, mixerStage, tickSound_eq, tickSequenced]

/-- What is mixed does not depend on the bookkeeping or on the last sample. -/
theorem preFold_endOfTick : (endOfTick s).preFold = s.preFold := rfl
theorem preFold_emitSample : (emitSample s).preFold = s.preFold := rfl

/-- The sample of a TICK is mixed from the registers the TICK leaves (R200 to R212). -/
theorem tickState_sample : (tickState s).tick.sample = outByte (tickState s).preFold := by
  unfold tickState mixerStage
  rw [preFold_endOfTick, preFold_emitSample, endOfTick_tick, emitSample_tick]

/-- A TICK emits exactly its sample (R125, R212). -/
theorem tickState_emitted : (tickState s).emitted = s.emitted ++ [(tickState s).tick.sample] := by
  simp [tickState, mixerStage, tickSound_eq, tickSequenced]

/-! ## The click -/

/-- What the click envelope writes (R137, R138). -/
theorem clickEnvelope_spec (edge : Bool) :
    (edge = true ∧ s.tick.stepIndex.toNat % 4 = 0 ∧
        (clickEnvelope edge s).tick.clickInc = clickPitch s.cfg s.tick.stepIndex ∧
        (clickEnvelope edge s).tick.clickAmp = 64 ∧ (clickEnvelope edge s).tick.clickDiv = 0) ∨
      (¬(edge = true ∧ s.tick.stepIndex.toNat % 4 = 0) ∧ (clickEnvelope edge s).tick.clickInc = s.tick.clickInc ∧
        (clickEnvelope edge s).tick.clickAmp = (clickDecay s).tick.clickAmp ∧
        (clickEnvelope edge s).tick.clickDiv = (clickDecay s).tick.clickDiv) := by
  unfold clickEnvelope
  split
  · next h =>
    simp only [Bool.and_eq_true, beq_iff_eq] at h
    exact .inl ⟨h.1, h.2, rfl, rfl, rfl⟩
  · next h =>
    simp only [Bool.and_eq_true, beq_iff_eq] at h
    refine .inr ⟨h, ?_, rfl, rfl⟩
    unfold clickDecay
    split <;> rfl

/-- The decayed amplitude in numbers (R138). -/
theorem decayedAmp_toNat (a : BitVec 7) :
    (decayedAmp a).toNat = if a.toNat ≤ 4 then 0 else a.toNat - 1 := by
  revert a; decide

/-- What one decay step writes (R138). -/
theorem clickDecay_spec :
    (s.tick.clickDiv = 4 ∧ (clickDecay s).tick.clickDiv = 0 ∧
        (clickDecay s).tick.clickAmp = decayedAmp s.tick.clickAmp) ∨
      (s.tick.clickDiv ≠ 4 ∧ (clickDecay s).tick.clickDiv = s.tick.clickDiv + 1 ∧
        (clickDecay s).tick.clickAmp = s.tick.clickAmp) := by
  have key : ∀ d : BitVec 3, d + 1 = clickDecayPeriod ↔ d = 4 := by decide
  unfold clickDecay
  split
  · next h => exact .inl ⟨(key _).mp h, rfl, rfl⟩
  · next h => exact .inr ⟨fun h' => h ((key _).mpr h'), rfl, rfl⟩

/-! ## Voices -/

@[simp] theorem Voice.next_trig (stop : Bool) (inc : Half) (len : Nat) (v : Voice) :
    v.next stop true inc len = Voice.started := rfl

@[simp] theorem Voice.next_stop (inc : Half) (len : Nat) (v : Voice) :
    v.next true false inc len = Voice.idle := rfl

theorem Voice.next_inactive {v : Voice} (h : v.active = false) (inc : Half) (len : Nat) :
    v.next false false inc len = v := by simp [Voice.next, h]

theorem Voice.next_active {v : Voice} (h : v.active = true) (inc : Half) (len : Nat) :
    v.next false false inc len = v.advance inc len := by simp [Voice.next, h]

/-- While a voice is active after a TICK its index is in its table (R186). -/
theorem Voice.next_index_le (stop trig : Bool) (inc : Half) (len : Nat) (v : Voice)
    (h : (v.next stop trig inc len).active = true) : (v.next stop trig inc len).idx.toNat ≤ len := by
  cases trig
  · cases stop
    · cases ha : v.active
      · rw [Voice.next_inactive ha] at h
        simp [h] at ha
      · rw [Voice.next_active ha] at h ⊢
        simp only [Voice.advance] at h ⊢
        split
        · simp [Voice.idle]
        · next h' => exact Nat.le_of_not_lt h'
    · simp [Voice.idle] at h
  · simp [Voice.started]

/-- The bounds of R186: a voice inside its table advances without losing a bit, and stays inside or ends. -/
theorem Voice.advance_spec {v : Voice} {len : Nat} (hl : len ≤ maxLen) (h : VoiceInv len v) (inc : Half) :
    (v.acc + inc.setWidth 32).toNat = v.acc.toNat + inc.toNat ∧
      v.advance inc len = if (v.acc.toNat + inc.toNat) / 64 ≤ len
        then { acc := v.acc + inc.setWidth 32, idx := ((v.acc + inc.setWidth 32) >>> fracBits).setWidth 16, active := v.active }
        else Voice.idle := by
  have hi := inc.isLt
  have ha := h.acc_in_table
  have hm : maxLen = 64511 := rfl
  have hadd : (v.acc + inc.setWidth 32).toNat = v.acc.toNat + inc.toNat := by
    rw [BitVec.toNat_add, BitVec.toNat_setWidth, Nat.mod_eq_of_lt (a := inc.toNat) (by omega), Nat.mod_eq_of_lt (by omega)]
  refine ⟨hadd, ?_⟩
  have hidx : (((v.acc + inc.setWidth 32) >>> fracBits).setWidth 16 : Half).toNat = (v.acc.toNat + inc.toNat) / 64 := by
    rw [BitVec.toNat_setWidth, BitVec.toNat_ushiftRight, hadd, Nat.shiftRight_eq_div_pow, fracBits,
      Nat.mod_eq_of_lt (by omega)]
  simp only [Voice.advance, hidx]
  split
  · next h' => rw [if_neg (by omega)]
  · next h' => rw [if_pos (by omega)]

theorem Voice.started_inv (len : Nat) : VoiceInv len Voice.started :=
  ⟨by simp [Voice.started], rfl, by simp [Voice.started]⟩

theorem Voice.idle_inv (len : Nat) : VoiceInv len Voice.idle :=
  ⟨fun _ => rfl, rfl, by simp [Voice.idle]⟩

/-- Every TICK keeps the voice invariant (R186, R187). -/
theorem Voice.next_inv {v : Voice} {len : Nat} (hl : len ≤ maxLen) (h : VoiceInv len v) (stop trig : Bool)
    (inc : Half) : VoiceInv len (v.next stop trig inc len) := by
  cases trig
  · cases stop
    · cases ha : v.active
      · rw [Voice.next_inactive ha]; exact h
      · rw [Voice.next_active ha]
        obtain ⟨hadd, heq⟩ := Voice.advance_spec hl h inc
        rw [heq]
        have hm : maxLen = 64511 := rfl
        split
        · next hle =>
          refine ⟨fun h' => ?_, ?_, ?_⟩
          · simp [ha] at h'
          · rw [BitVec.toNat_setWidth, BitVec.toNat_ushiftRight, hadd, Nat.shiftRight_eq_div_pow, fracBits,
              Nat.mod_eq_of_lt (by omega)]
          · simp only [hadd]; omega
        · exact Voice.idle_inv len
    · exact Voice.idle_inv len
  · exact Voice.started_inv len

/-- A slot address never wraps (R82). -/
theorem slotOf_toNat (step : StepNo) :
    (s.slotOf step).toNat = step.toNat + s.cfg.bankOffsets[s.host.bank.toNat] := by
  have h := s.cfg.offset_le s.host.bank.toFin
  have h' := step.isLt
  simp only [State.slotOf, BitVec.toNat_ofNat]
  exact Nat.mod_eq_of_lt (by simp only [Fin.getElem_fin, BitVec.val_toFin] at h; omega)

/-! ## exec -/

@[simp] theorem exec_nop : exec .nop s = .next s := rfl
@[simp] theorem exec_tick : exec .tick s = .next (tickState s) := rfl
@[simp] theorem exec_trig (n : Track) : exec (.trig n) s = .next (liveTrigger n s) := rfl
@[simp] theorem exec_setflag (id : FlagSel) (b : Bool) : exec (.setflag id b) s = .next (setFlag id b s) := rfl
@[simp] theorem exec_play (b : Bool) : exec (.play b) s = .next (setTransport b s) := rfl
@[simp] theorem exec_rectoggle : exec .rectoggle s = .next (toggleRecord s) := rfl
@[simp] theorem exec_tap : exec .tap s = .next (tapEvent s) := rfl
@[simp] theorem exec_loopiter : exec .loopiter s = .next (loopIteration s) := rfl
@[simp] theorem exec_rdreg (r : RegSel) : exec (.rdreg r) s = .next (readRegister r s) := rfl
@[simp] theorem exec_rdseq (q : SeqSel) : exec (.rdseq q) s = .next (readSlot q s) := rfl
@[simp] theorem exec_reservedF : exec .reservedF s = .next (commandError s) := rfl
@[simp] theorem exec_setpitch (m : Melodic) (val : Half) : exec (.setpitch m val) s =
    .next { s with host := { s.host with livePitch := s.host.livePitch.set m val } } := rfl
@[simp] theorem exec_setnoise (val : Half) : exec (.setnoise val) s =
    .next { s with host := { s.host with noiseRate := val } } := rfl
@[simp] theorem exec_bank (n : BitVec 2) : exec (.bank n) s =
    .next { s with host := { s.host with bank := n } } := rfl
@[simp] theorem exec_step : exec .step s = .next { s with latch := { s.latch with step := true } } := rfl
@[simp] theorem exec_settempo (val : BitVec 28) : exec (.settempo val) s =
    .next { s with host := { s.host with stepLength := atLeastOne (val.setWidth 32) } } := rfl

/-- A step applies the next pending word (R88). -/
theorem step_cons {w : Word} {rest : List Word} (h : s.pending = w :: rest) :
    step s = exec (decode w) { s with pending := rest } := by simp [step, takeOperation, h]

/-- A step with nothing pending changes nothing (R293). -/
theorem step_nil (h : s.pending = []) : step s = .next s := by simp [step, takeOperation, h]

end Sys2Proof.Machine
end

