-- ==== Sys2Proof/Laws/Mixer.lean ====
section
/-! SUPPORT. The mixer in plain integer arithmetic (`spec/44_mixer.md`): the gate, the scaling, and the ranges of the
values. -/

namespace Sys2Proof.Machine

/-- The click gate (R202). -/
theorem clickGate_iff (t : State) : t.clickGate = true ↔
    t.host.play = true ∧ t.host.clickEn = true ∧ 4 ≤ t.tick.clickAmp.toNat := by
  simp only [State.clickGate, Bool.and_eq_true, decide_eq_true_eq, and_assoc, BitVec.le_def]; rfl

/-- Scaling by the amplitude is a floor division by 64 (R203, R206). -/
theorem scaleByAmp_eq (a : BitVec 7) (x : Int) : scaleByAmp a x = x * a.toNat / 64 := by simp [scaleByAmp, asr]

theorem clickIndex_eq (t : State) : t.clickIndex = t.tick.clickAcc.toNat / 64 % t.cfg.clickTable.length := by
  simp [State.clickIndex, fracBits, Nat.shiftRight_eq_div_pow]

theorem noiseIndex_eq (t : State) : t.noiseIndex = t.tick.noiseAcc.toNat / 64 % t.cfg.noiseTable.length := by
  simp [State.noiseIndex, fracBits, Nat.shiftRight_eq_div_pow]

/-- A table read inside the table (R81). -/
theorem tableByte_of_some {c : Config} {v : VoiceNo} {i : Nat} {b : Byte} (h : (c.table v)[i]? = some b) :
    tableByte c v i = b := by simp [tableByte, List.getD_eq_getElem?_getD, h]

theorem clickByte_of_some {c : Config} {i : Nat} {b : Byte} (h : c.clickTable[i]? = some b) : clickByte c i = b := by
  simp [clickByte, List.getD_eq_getElem?_getD, h]

theorem noiseByte_of_some {c : Config} {i : Nat} {b : Byte} (h : c.noiseTable[i]? = some b) : noiseByte c i = b := by
  simp [noiseByte, List.getD_eq_getElem?_getD, h]

/-- A recentred byte is in [-127, 128] (R185). -/
theorem recentre_bounds (b : Byte) : -127 ≤ recentre b ∧ recentre b ≤ 128 := by
  have := b.isLt
  simp only [recentre, centre]; omega

/-- Scaling with an amplitude of at most 64 keeps that range (R203, R206). -/
theorem scaleByAmp_bounds {a : BitVec 7} (h : a.toNat ≤ 64) {x : Int} (hx : -127 ≤ x ∧ x ≤ 128) :
    -127 ≤ scaleByAmp a x ∧ scaleByAmp a x ≤ 128 := by
  rw [scaleByAmp_eq]
  have h1 : -127 * 64 ≤ x * a.toNat := by nlinarith
  have h2 : x * a.toNat ≤ 128 * 64 := by nlinarith
  omega

/-- So does an arithmetic right shift by any amount (R10, R209). -/
theorem asr_bounds {x : Int} (k : Nat) (hx : -127 ≤ x ∧ x ≤ 128) : -127 ≤ asr x k ∧ asr x k ≤ 128 := by
  unfold asr
  have hp : (0 : Int) < 2 ^ k := by positivity
  constructor
  · rw [Int.le_ediv_iff_mul_le hp]; nlinarith
  · exact le_trans (Int.ediv_le_ediv hp hx.2) (Int.ediv_le_self _ (by norm_num))

theorem or_eq_not_and_not (a b : BitVec 16) : a ||| b = ~~~(~~~a &&& ~~~b) := by
  apply BitVec.eq_of_getLsbD_eq
  intro i hi
  simp [hi]

theorem toInt_not (x : BitVec 16) : (~~~x).toInt = -1 - x.toInt := by
  rw [BitVec.toInt_eq_toNat_cond, BitVec.toInt_eq_toNat_cond, BitVec.toNat_not]
  have := x.isLt
  split <;> split <;> omega

theorem toInt_ofInt_small {a : Int} (h : -128 ≤ a ∧ a ≤ 128) : (BitVec.ofInt 16 a).toInt = a := by
  rw [BitVec.toInt_ofInt]; simp only [Int.bmod]; omega

/-- The OR of two small signed values (R209). -/
theorem or16_bounds {a b : Int} (ha : -128 ≤ a ∧ a ≤ 128) (hb : -128 ≤ b ∧ b ≤ 128) :
    -128 ≤ or16 a b ∧ or16 a b ≤ 255 := by
  unfold or16
  have ta := toInt_ofInt_small ha
  have tb := toInt_ofInt_small hb
  generalize BitVec.ofInt 16 a = x at *
  generalize BitVec.ofInt 16 b = y at *
  have hx := x.isLt
  have hy := y.isLt
  rw [BitVec.toInt_eq_toNat_cond] at ta tb
  by_cases h0 : 0 ≤ a ∧ 0 ≤ b
  · have hxa : x.toNat < 2 ^ 8 := by split at ta <;> omega
    have hyb : y.toNat < 2 ^ 8 := by split at tb <;> omega
    have := Nat.or_lt_two_pow hxa hyb
    rw [BitVec.toInt_eq_toNat_cond, BitVec.toNat_or]
    split <;> omega
  · rw [or_eq_not_and_not, toInt_not, BitVec.toInt_eq_toNat_cond, BitVec.toNat_and, BitVec.toNat_not, BitVec.toNat_not]
    have h1 := Nat.and_le_left (n := 2 ^ 16 - 1 - x.toNat) (m := 2 ^ 16 - 1 - y.toNat)
    have h2 := Nat.and_le_right (n := 2 ^ 16 - 1 - x.toNat) (m := 2 ^ 16 - 1 - y.toNat)
    generalize (2 ^ 16 - 1 - x.toNat) &&& (2 ^ 16 - 1 - y.toNat) = z at *
    split at ta <;> split at tb <;> split <;> omega

/-- A TICK keeps an amplitude of at most 64 (R48, R137, R138). -/
theorem tickState_clickAmp_le (s : State) (h : s.tick.clickAmp.toNat ≤ 64) :
    (tickState s).tick.clickAmp.toNat ≤ 64 := by
  rw [tickState_clickAmp]
  rcases clickEnvelope_spec (tickTime s) (tickTime s).stepEdge with ⟨-, -, -, b, -⟩ | ⟨-, -, b, -⟩
  · rw [b]; decide
  · rw [b]
    rcases clickDecay_spec (tickTime s) with ⟨-, -, c⟩ | ⟨-, -, c⟩
    · rw [c, decayedAmp_toNat, tickTime_clickAmp]; split <;> omega
    · rw [c, tickTime_clickAmp]; exact h

end Sys2Proof.Machine
end

