-- ==== Sys2Proof/Laws/Trigger.lean ====
section
/-! SUPPORT. The triggers of a TICK in the spec's terms (`spec/42_sequencer.md` R160 to R164), from the state the TICK
started in. -/

namespace Sys2Proof.Machine

variable (s : State)

/-- A voice is triggered when a track routed to it fires (R164). -/
theorem voiceTrig_iff (edge : Bool) (v : VoiceNo) :
    s.voiceTrig edge v = true ↔ ∃ n : Track, v ∈ s.cfg.trackVoices[n] ∧ s.fire edge n = true := by
  simp [State.voiceTrig, List.any_eq_true]

/-- The step edge of a TICK compares the new step with the step of the last TICK (R135). -/
theorem tickTime_stepEdge_iff :
    (tickTime s).stepEdge = true ↔ (tickTime s).tick.stepIndex ≠ s.tick.prevStepIndex := by
  simp [State.stepEdge]

/-- The slot the playhead is on, from its number (R160). -/
theorem tickTime_playSlot {a : Slot}
    (h : a.toNat = (tickTime s).tick.stepIndex.toNat + s.cfg.bankOffsets[s.host.bank.toNat]) :
    (tickTime s).playSlot = a := by
  apply BitVec.eq_of_toNat_eq
  rw [State.playSlot, slotOf_toNat, h]
  simp

@[simp] theorem tickTime_liveTrig (n : Track) : (tickTime s).liveTrig n = s.latch.live[n] := by
  simp [State.liveTrig]

/-- The sequenced trigger of a track (R161). -/
theorem tickTime_seqTrig_iff {n : Track} {a : Slot}
    (h : a.toNat = (tickTime s).tick.stepIndex.toNat + s.cfg.bankOffsets[s.host.bank.toNat]) :
    (tickTime s).seqTrig (tickTime s).stepEdge n = true ↔
      (tickTime s).tick.stepIndex ≠ s.tick.prevStepIndex ∧ s.host.play = true ∧ s.mem.readTrig n a = 1 := by
  simp only [State.seqTrig, Bool.and_eq_true, tickTime_stepEdge_iff, tickTime_playSlot s h]
  simp [and_assoc]

/-- The merged trigger of a track (R163). -/
theorem tickTime_fire_iff {n : Track} {a : Slot}
    (h : a.toNat = (tickTime s).tick.stepIndex.toNat + s.cfg.bankOffsets[s.host.bank.toNat]) :
    (tickTime s).fire (tickTime s).stepEdge n = true ↔ s.latch.live[n] = true ∨
      ((tickTime s).tick.stepIndex ≠ s.tick.prevStepIndex ∧ s.host.play = true ∧ s.mem.readTrig n a = 1) := by
  rw [State.fire, Bool.or_eq_true, tickTime_seqTrig_iff s h, tickTime_liveTrig, or_comm]

/-- While stopped only the live triggers fire (R161, R133). -/
theorem tickTime_fire_stopped (hp : s.host.play = false) (n : Track) :
    (tickTime s).fire (tickTime s).stepEdge n = s.latch.live[n] := by
  simp [State.fire, State.seqTrig, hp]

/-- The track of a melodic index (R43). -/
theorem melodicTrack_val (m : Melodic) : (melodicTrack m).val = 2 + m.val := by revert m; decide

theorem melodicOf_iff (n : Track) (m : Melodic) : melodicOf n = some m ↔ n.val = 2 + m.val := by
  revert n m; decide

/-- The increment of a pitched voice is the stored one (R46). -/
theorem inc_pitched {v : VoiceNo} {m : Melodic} (h : v.val = 4 + m.val) : s.inc v = s.tick.pitchedInc[m] := by
  rw [State.inc, dif_neg (by omega)]
  have : v.val - 4 = m.val := by omega
  simp only [this]; rfl

/-- The increment of a percussive voice is the configured one (R46). -/
theorem inc_percussive (v : Fin 4) : s.inc (v.castLE (by omega)) = s.cfg.voiceInc[v] := by
  have := v.isLt
  simp [State.inc]

end Sys2Proof.Machine
end

