-- ==== Sys2Proof/Laws/Recorder.lean ====
section
/-! SUPPORT. The recorder, the erase and the tap arithmetic in the spec's terms (`spec/45_recorder.md`,
`spec/41_timebase.md` R141). -/

namespace Sys2Proof.Machine

variable (s : State)

/-- The erase-armed predicate (R52). -/
theorem eraseArmed_iff (h : HostRegs) :
    h.eraseArmed = true ↔ h.record = true ∧ h.eraseHold = true ∧ h.eraseBlocked = false := by
  simp [HostRegs.eraseArmed, and_assoc]

/-- The quantized write index (R231). -/
theorem writeIndex_toNat : s.writeIndex.toNat =
    if 3 * s.host.stepLength.toNat / 4 ≤ (s.tick.tickCounter - s.tick.lastStepTick).toNat
    then (s.tick.stepIndex.toNat + 1) % 32 else s.tick.stepIndex.toNat := by
  unfold State.writeIndex HostRegs.quantThreshold State.elapsed
  split
  · rw [BitVec.toNat_add]; rfl
  · rfl

/-- The 32 slots of the selected bank (R83, R236). -/
theorem mem_bankSlots (a : Slot) :
    a ∈ s.bankSlots ↔ ∃ i < 32, a.toNat = s.cfg.bankOffsets[s.host.bank.toNat] + i := by
  simp only [State.bankSlots, List.mem_map, List.mem_range]
  constructor
  · rintro ⟨i, hi, rfl⟩
    refine ⟨i, hi, ?_⟩
    rw [slotOf_toNat]; simp; omega
  · rintro ⟨i, hi, h⟩
    refine ⟨i, hi, BitVec.eq_of_toNat_eq ?_⟩
    rw [slotOf_toNat, h]; simp; omega

/-- What a recording TRIG stores (R232). -/
theorem liveTrigger_mem (n : Track) : (liveTrigger n s).mem =
    if s.host.record then
      match melodicOf n with
      | some i => (s.mem.writeTrig n (s.slotOf s.writeIndex) 1).writePitch i (s.slotOf s.writeIndex) s.host.livePitch[i]
      | none => s.mem.writeTrig n (s.slotOf s.writeIndex) 1
    else s.mem := by
  unfold liveTrigger
  split <;> rfl

/-- Every LOOPITER counts, erases or clears the count (R242). -/
theorem loopIteration_cases :
    (s.host.eraseArmed = false ∧ loopIteration s = { s with host := { s.host with eraseCount := 0 } }) ∨
    (s.host.eraseArmed = true ∧ s.host.eraseCount + 1 ≠ 800 ∧ loopIteration s = countHold s) ∨
    (s.host.eraseArmed = true ∧ s.host.eraseCount + 1 = 800 ∧ loopIteration s = eraseBank (countHold s)) := by
  unfold loopIteration
  cases h : s.host.eraseArmed
  · exact .inl ⟨rfl, rfl⟩
  · rw [if_pos rfl]
    by_cases h8 : s.host.eraseCount + 1 = 800
    · exact .inr (.inr ⟨rfl, h8, if_pos h8⟩)
    · exact .inr (.inl ⟨rfl, h8, if_neg h8⟩)

theorem countHold_bankSlots : (countHold s).bankSlots = s.bankSlots := rfl

/-- `max(1, v)` (R141, R145). -/
theorem atLeastOne_toNat (w : Word) : (atLeastOne w).toNat = max 1 w.toNat := by
  unfold atLeastOne
  split
  · next h => rw [h]; rfl
  · next h =>
    have : w.toNat ≠ 0 := fun h0 => h (BitVec.eq_of_toNat_eq (by simpa using h0))
    omega

/-- The mean of the two taps never wraps (R141). -/
theorem tapMean_toNat (h : HostRegs) : h.tapMean.toNat = (h.tapHist[0].toNat + h.tapHist[1].toNat) / 2 := by
  have a := h.tapHist[0].isLt
  have b := h.tapHist[1].isLt
  simp only [HostRegs.tapMean, BitVec.toNat_ofNat]
  omega

/-- What an accepted tap counts (R141). -/
theorem tapCount_next (c : BitVec 2) :
    (if c.toNat + 1 < 2 then c + 1 else 2 : BitVec 2).toNat = min (c.toNat + 1) 2 := by revert c; decide

/-- Setting the step length touches no tap register (R141). -/
@[simp] theorem applyTaps_tapHist : (applyTaps s).host.tapHist = s.host.tapHist := by unfold applyTaps; split <;> rfl
@[simp] theorem applyTaps_tapSlot : (applyTaps s).host.tapSlot = s.host.tapSlot := by unfold applyTaps; split <;> rfl
@[simp] theorem applyTaps_tapCount : (applyTaps s).host.tapCount = s.host.tapCount := by
  unfold applyTaps; split <;> rfl
@[simp] theorem applyTaps_prevTapTick : (applyTaps s).host.prevTapTick = s.host.prevTapTick := by
  unfold applyTaps; split <;> rfl

end Sys2Proof.Machine
end

