-- ==== Sys2Proof/Laws/Invariant.lean ====
section
/-! SUPPORT. How the parts of the invariant (`Sys2Proof.Machine.Inv`) follow from what an operation leaves alone. -/

namespace Sys2Proof.Machine

/-- The tap history depends only on its registers. -/
theorem TapInv.congr {h h' : HostRegs} (hi : TapInv h) (e : (h'.tapHist, h'.tapCount) = (h.tapHist, h.tapCount)) :
    TapInv h' := by
  simp only [Prod.mk.injEq] at e
  obtain ⟨a, b⟩ := hi
  exact ⟨by rw [e.2]; exact a, by rw [e.1]; exact b⟩

/-- The recorder's invariant depends only on its registers. -/
theorem RecorderInv.congr {h h' : HostRegs} (hi : RecorderInv h)
    (e : (h'.record, h'.play, h'.eraseCount, h'.eraseHold, h'.eraseBlocked) =
      (h.record, h.play, h.eraseCount, h.eraseHold, h.eraseBlocked)) : RecorderInv h' := by
  simp only [Prod.mk.injEq] at e
  obtain ⟨e1, e2, e3, e4, e5⟩ := e
  obtain ⟨a, b, c, d⟩ := hi
  refine ⟨by rw [e1, e2]; exact a, by rw [e3]; exact b, ?_, by rw [e4, e5]; exact d⟩
  unfold HostRegs.eraseArmed at *
  rw [e1, e3, e4, e5]
  exact c

/-- What a host command must show: it keeps the TICK-written part, so only the host's part is left. -/
theorem Inv.of_host {s t : State} (hi : Inv s) (hc : t.cfg = s.cfg) (ht : t.tick = s.tick)
    (he : t.emitted = s.emitted) (hm : t.mem.wf = true) (hs : 0 < t.host.stepLength.toNat) (htap : TapInv t.host)
    (hr : RecorderInv t.host) : Inv t where
  voices := by rw [hc, ht]; exact hi.voices
  time := ⟨hs, by rw [ht]; exact hi.time.2, by rw [ht]; exact hi.time.3⟩
  tap := htap
  click := ⟨by rw [ht]; exact hi.click.1, by rw [ht]; exact hi.click.2, by rw [ht]; exact hi.click.3,
    by rw [hc, ht]; exact hi.click.4⟩
  recorder := hr
  stream := ⟨by rw [ht, he]; exact hi.stream.1, by rw [ht, he]; exact hi.stream.2⟩
  memory := hm

/-- Taking a word off the queue changes nothing the invariant speaks of. -/
theorem Inv.pending {s : State} (hi : Inv s) (ws : List Word) : Inv { s with pending := ws } :=
  hi.of_host rfl rfl rfl hi.memory hi.time.1 (hi.tap.congr rfl) (hi.recorder.congr rfl)

end Sys2Proof.Machine
end

