-- ==== Sys2Proof/Laws/PerInstr.lean ====
section
/-! SUPPORT. Statements about every operation as syntax, one lemma per constructor of `Instr`. -/

namespace Sys2Proof.Laws.OpField

/-- The opcode field of an operation's encoding is its row's (`spec/30_encoding.md` R100, R104). -/
def Statement (i : Instr) : Prop := opField (encode i) = i.opcode

theorem nop : Statement .nop := rfl

theorem tick : Statement .tick := rfl

theorem trig (n : Track) : Statement (.trig n) := by
  unfold Statement opField encode Instr.opcode
  dsimp only
  rw [extract_append_high _ _ _ _ (by omega), extract_append_high _ _ _ _ (by omega)]
  exact extract_all _

theorem setpitch (m : Melodic) (val : Half) : Statement (.setpitch m val) := by
  unfold Statement opField encode Instr.opcode
  dsimp only
  rw [extract_append_high _ _ _ _ (by omega), extract_append_high _ _ _ _ (by omega),
    extract_append_high _ _ _ _ (by omega)]
  exact extract_all _

theorem setnoise (val : Half) : Statement (.setnoise val) := by
  unfold Statement opField encode Instr.opcode
  dsimp only
  rw [extract_append_high _ _ _ _ (by omega), extract_append_high _ _ _ _ (by omega)]
  exact extract_all _

theorem setflag (id : FlagSel) (b : Bool) : Statement (.setflag id b) := by
  unfold Statement opField encode Instr.opcode
  dsimp only
  rw [extract_append_high _ _ _ _ (by omega), extract_append_high _ _ _ _ (by omega),
    extract_append_high _ _ _ _ (by omega), extract_append_high _ _ _ _ (by omega)]
  exact extract_all _

theorem play (b : Bool) : Statement (.play b) := by
  unfold Statement opField encode Instr.opcode
  dsimp only
  rw [extract_append_high _ _ _ _ (by omega), extract_append_high _ _ _ _ (by omega)]
  exact extract_all _

theorem rectoggle : Statement .rectoggle := rfl

theorem tap : Statement .tap := rfl

theorem bank (n : BitVec 2) : Statement (.bank n) := by
  unfold Statement opField encode Instr.opcode
  dsimp only
  rw [extract_append_high _ _ _ _ (by omega), extract_append_high _ _ _ _ (by omega)]
  exact extract_all _

theorem step : Statement .step := rfl

theorem loopiter : Statement .loopiter := rfl

theorem settempo (val : BitVec 28) : Statement (.settempo val) := by
  unfold Statement opField encode Instr.opcode
  dsimp only
  rw [extract_append_high _ _ _ _ (by omega)]
  exact extract_all _

theorem rdreg (r : RegSel) : Statement (.rdreg r) := by
  unfold Statement opField encode Instr.opcode
  dsimp only
  rw [extract_append_high _ _ _ _ (by omega), extract_append_high _ _ _ _ (by omega)]
  exact extract_all _

theorem rdseq (q : SeqSel) : Statement (.rdseq q) := by
  unfold Statement opField encode Instr.opcode
  dsimp only
  rw [extract_append_high _ _ _ _ (by omega), extract_append_high _ _ _ _ (by omega),
    extract_append_high _ _ _ _ (by omega), extract_append_high _ _ _ _ (by omega),
    extract_append_high _ _ _ _ (by omega), extract_append_high _ _ _ _ (by omega)]
  exact extract_all _

theorem reservedF : Statement .reservedF := rfl

end Sys2Proof.Laws.OpField
end

