-- ==== Sys2Proof/Tests/Slice0.lean ====
section
/-! SUPPORT. Small tests of the model, with results taken from the spec's own vectors (`spec/95_test_vectors.md`) and
worked examples, and one witness for the hypotheses of every statement that has some. -/

namespace Sys2Proof.Tests

open Sys2Proof.Machine

/-! ## The test configuration TC (`spec/95_test_vectors.md` section 0) -/

/-- TC, as plain data. -/
def tcData : ConfigData where
  len := Vector.replicate 6 7
  tables := (List.range 6).map fun v => (List.range 8).map fun i => BitVec.ofNat 8 (127 + 10 * (v + 1) + i)
  tableOfVoice := #v[0, 1, 2, 3, 4, 5]
  voiceInc := #v[64, 128, 32, 64]
  clickTable := [127, 227, 127, 27]
  clickIncLow := 16
  clickIncMid := 32
  clickIncHigh := 64
  noiseTable := [200, 50, 180, 90]

/-- TC is an accepted configuration. -/
def tc : Config := { toConfigData := tcData, ok := by decide }

/-- "From reset" under TC. -/
def r0 : State := State.resetWith tc

/-- The start state P of section 2.4, with a STEP already latched. -/
def p0 : State := { r0 with
  tick := { r0.tick with prevPlay := true, stepIndex := 4, prevStepIndex := 4, tickCounter := 100 }
  host := { r0.host with play := true, extTempo := true }
  latch := { r0.latch with step := true } }

/-- The start state R(el, L, s) of section 2.7. -/
def rec0 (el : Word) (len : Word) (step : StepNo) : State := { r0 with
  tick := { r0.tick with prevPlay := true, stepIndex := step, prevStepIndex := step, lastStepTick := 1000
                         tickCounter := 1000 + el }
  host := { r0.host with play := true, record := true, stepLength := len } }

/-- A recording state that holds the erase, the hold counted `n` times. -/
def hold0 (n : BitVec 10) : State := { r0 with
  host := { r0.host with play := true, record := true, eraseHold := true, eraseCount := n } }

/-- The state of the metronome of V-MX-3 after its TICK 1228. -/
def metro : State := { r0 with
  tick := { r0.tick with tickCounter := 1228, lastStepTick := 1226, stepIndex := 0, prevStepIndex := 0
                         prevPlay := true, clickAcc := 19648, clickInc := 16, clickAmp := 64, clickDiv := 2
                         noiseAcc := 78592 }
  host := { r0.host with play := true, clickEn := true, mixBlend := true, noiseRate := 64 } }

/-- A voice with V0's accumulator at 448, index 7, the last entry of its table. -/
def lastEntry : Voice := { acc := 448, idx := 7, active := true }

/-- The outcome is a next state that passes the check. -/
def sees (o : Host.Outcome State Fault Refusal) (check : State → Bool) : Bool :=
  match o with
  | .next t => check t
  | .fault _ => false
  | .refused _ => false

/-! ## WellFormed and the configuration refuse what they should -/

/-- R105, R55, R106: a selector written as reserved with a number that is not. -/
theorem test_ill_formed_refused :
    Instr.wf (.setflag (.reserved 5) true) = false ∧ Instr.wf (.rdreg (.reserved 27)) = false ∧
      Instr.wf (.rdseq (.reserved 2 0)) = false := by decide

theorem test_reserved_well_formed :
    Instr.wf (.setflag (.reserved 6) true) = true ∧ Instr.wf (.rdreg (.reserved 28)) = true ∧
      Instr.wf (.rdseq (.reserved 1 0)) = true := by decide

/-- The name of the constraint a refused configuration breaks. -/
def refusal (d : ConfigData) : Option ConfigError :=
  match Config.accept d with
  | .ok _ => none
  | .error e => some e

/-- R9, constraint by constraint. -/
theorem test_config_refused :
    refusal tcData = none ∧ refusal { tcData with len := tcData.len.set 0 64512 } = some .lengthTooLarge ∧
      refusal { tcData with len := tcData.len.set 5 8 } = some .tableTooShort ∧
      refusal { tcData with clickTable := [] } = some .clickTableEmpty ∧
      refusal { tcData with noiseTable := [] } = some .noiseTableEmpty ∧
      refusal { tcData with trackVoices := #v[[0, 2], [1, 3, 4], [4], [5]] } = some .routingIllegal := by decide

/-- R8, R82, R33; the disjoint offsets of R83 are accepted. -/
theorem test_config_refused_more :
    refusal { tcData with clickIncMid := 16 } = some .clickPitchOrder ∧
      refusal { tcData with bankOffsets := #v[0, 31, 63, 97] } = some .bankOffsetTooLarge ∧
      refusal { tcData with stepLengthReset := 0 } = some .stepLengthZero ∧
      refusal { tcData with bankOffsets := #v[0, 32, 64, 96] } = none := by decide

/-! ## Decoding: the words of V-ENC-1 to V-ENC-22, every constructor among them -/

theorem test_decode_nop : decode 0x00000000 = .nop := by decide
theorem test_decode_tick : decode 0x10000000 = .tick := by decide
theorem test_decode_trig : decode 0x20000002 = .trig 2 := by decide
theorem test_decode_setpitch : decode 0x30010100 = .setpitch 1 0x0100 := by decide
theorem test_decode_setnoise : decode 0x40000040 = .setnoise 64 := by decide
theorem test_decode_setflag : decode 0x50000001 = .setflag .reverse true ∧ decode 0x50000101 = .setflag .mixBlend true ∧
    decode 0x50000201 = .setflag .clickEn true ∧ decode 0x50000301 = .setflag .extTempo true ∧
    decode 0x50000401 = .setflag .tapGate true ∧ decode 0x50000500 = .setflag .eraseHold false := by decide
theorem test_decode_play : decode 0x60000001 = .play true ∧ decode 0x60000000 = .play false := by decide
theorem test_decode_rectoggle : decode 0x70000000 = .rectoggle := by decide
theorem test_decode_tap : decode 0x80000000 = .tap := by decide
theorem test_decode_bank : decode 0x90000003 = .bank 3 := by decide
theorem test_decode_step : decode 0xA0000000 = .step := by decide
theorem test_decode_loopiter : decode 0xB0000000 = .loopiter := by decide
theorem test_decode_settempo : decode 0xC00000C8 = .settempo 200 := by decide
theorem test_decode_rdreg : decode 0xD0000000 = .rdreg .status ∧ decode 0xD0000014 = .rdreg (.vacc 2) := by decide
theorem test_decode_rdseq : decode 0xE0001305 = .rdseq (.pitch 1 5) ∧ decode 0xE0000128 = .rdseq (.trig 1 40) := by
  decide
theorem test_decode_reservedF : decode 0xF0000000 = .reservedF := by decide

/-- V-ENC-22 and R110: reserved bits are ignored, reserved selectors are named. -/
theorem test_decode_reserved : decode 0x2FFFFFF2 = .trig 2 ∧ decode 0x0FFFFFFF = .nop ∧
    decode 0x50000601 = .setflag (.reserved 6) true ∧ decode 0xD000001E = .rdreg (.reserved 30) ∧
    decode 0xE0001003 = .rdseq (.reserved 0 3) := by decide

/-- R85: bytes are least significant first; a shorter stream is rejected by name. -/
theorem test_decode_bytes : decodeBytes [0x02, 0x00, 0x00, 0x20] = .ok (.trig 2, []) ∧
    decodeBytes [0x02, 0x00, 0x00] = .error .truncated ∧ decodeTableWord 32 0x20000002 = some (.trig 2) := by decide

/-! ## The assembler (R111, R112) -/

theorem test_assemble_lines : assembleLine "SETFLAG TAP_GATE, 1" = .ok [0x50000401] ∧
    assembleLine "  RDREG VIDX_5 ; end" = .ok [0xD000001B] ∧ assembleLine "; only a comment" = .ok [] := by decide

theorem test_assemble_pseudo : assembleLine "TICKS 3" = .ok [0x10000000, 0x10000000, 0x10000000] ∧
    assembleLine "STOP" = .ok [0x60000000] ∧ assembleLine "ERASEHOLD 0" = .ok [0x50000500] := by decide

theorem test_assemble_errors : assembleLine "TRIG 4" = .error .operandTooLarge ∧
    assembleLine "TRIG x" = .error .badOperand ∧ assembleLine "TRIG" = .error .unknownOperation := by decide

/-! ## TICK -/

/-- V-TICK-3, its last TICK: the stop reset ends V1 and V3, then the live trigger of T0 starts V0 and V2. -/
theorem test_tick_stop_reset_before_triggers :
    sees (exec .tick { r0 with
        tick := { r0.tick with prevPlay := true
                               voices := (r0.tick.voices.set 1 { acc := 128, idx := 2, active := true }).set 3
                                 { acc := 64, idx := 1, active := true } }
        latch := { r0.latch with live := r0.latch.live.set 0 true } })
      (fun t => t.tick.activeBits == 0b000101#6 && t.tick.sample == 147 && t.emitted == [147]) = true := by decide

/-- V-MX-3, TICK 1229: blend mode, click and noise both heard. -/
theorem test_tick_blend_metronome :
    sees (exec .tick metro) (fun t => t.tick.sample == 126 && t.tick.clickAcc == 19664 && t.tick.clickDiv == 3) = true := by
  decide

/-- V-TB-1 and V-TB-9: the comparison is strict, and the elapsed ticks are taken modulo 2^32. -/
theorem test_timeBase_internal :
    let s := { r0 with
      tick := { r0.tick with tickCounter := 12, lastStepTick := 10, stepIndex := 4, prevStepIndex := 4 }
      host := { r0.host with play := true, stepLength := 3 } }
    let w := { s with
      tick := { s.tick with tickCounter := 4, lastStepTick := 0xFFFFFFF0 }, host := { s.host with stepLength := 20 } }
    (tickTime s).tick.stepIndex = 4 ∧
      (tickTime (advanceCounter s)).tick.stepIndex = 5 ∧ (tickTime (advanceCounter s)).tick.lastStepTick = 14 ∧
      (tickTime w).tick.stepIndex = 5 ∧ (tickTime w).tick.lastStepTick = 5 := by decide

/-- V-TB-10, V-TB-11: the click pitches of the quarter steps, and the decay steps 64 to 63 and 4 to 0. -/
theorem test_click : [0, 4, 8, 12, 16].map (clickPitch tc) = [16, 64, 32, 64, 32] ∧ decayedAmp 64 = 63 ∧
    decayedAmp 4 = 0 ∧ decayedAmp 0 = 0 := by decide

/-- V-SQ-2: with bank 3 the step edge to step 5 reads slot 100 and not slot 5. -/
theorem test_sequencer_bank_offset :
    sees (exec .tick { p0 with host := { p0.host with bank := 3 }, mem := { p0.mem with trig := [(228, 1)] } })
        (fun t => t.tick.sample == 157) = true ∧
      sees (exec .tick { p0 with host := { p0.host with bank := 3 }, mem := { p0.mem with trig := [(133, 1)] } })
        (fun t => t.tick.sample == 127) = true := by decide

/-- V-SQ-3 and V-SQ-4: the stored pitch, and the live pitch over it. -/
theorem test_sequencer_pitch :
    let s := { p0 with mem := { trig := [(261, 1)], pitch := [(5, 128)] }
                       host := { p0.host with livePitch := #v[32, 0] } }
    (tickState s).inc 4 = 128 ∧ (tickState (liveTrigger 2 s)).inc 4 = 32 := by decide

/-- V-VO-1, V-VO-6: the last entry sounds, the next TICK ends the voice; a fractional phase. -/
theorem test_voice_end : Voice.next false false 64 7 { acc := 384, idx := 6, active := true } = lastEntry ∧
    Voice.next false false 64 7 lastEntry = { acc := 0, idx := 0, active := false } ∧
    Voice.next false false 100 7 { acc := 300, idx := 4, active := true } = { acc := 400, idx := 6, active := true } := by
  decide

/-- V-VO-8, V-VO-9: reverse mirrors the percussive voices only. -/
theorem test_reverse_sample :
    let s := { r0 with
      host := { r0.host with reverse := true }
      tick := { r0.tick with voices := (r0.tick.voices.set 1 { acc := 256, idx := 4, active := true }).set 5
                               { acc := 64, idx := 1, active := true } } }
    s.voiceSample 1 = 23 ∧ s.voiceSample 5 = 61 := by decide

/-- V-MX-1. -/
theorem test_fold : [0, 255, 256, 510, 511, 600, -1, -255, -256, -318, -763, 1150].map outByte =
    [0, 255, 254, 0, 1, 90, 1, 255, 0, 62, 251, 128] := by decide

/-- V-MX-9. -/
theorem test_blend : blendOf 1 64 0 = 32 ∧ blendOf 1 (-64) 0 = -32 ∧ blendOf 1 (-1) 5 = -1 ∧ blendOf 1 100 (-3) = -1 ∧
    blendOf 1 128 128 = 192 ∧ blendOf 1 (-127) (-127) = -63 ∧ blendOf 1 0 (-128) = -128 := by decide

/-- V-MX-7, V-MX-8: the extreme sums. -/
theorem test_mix_extremes : mixDirect (-762) (-127) = -318 ∧ mixBlended 1 768 128 128 = 1087 ∧ outByte 1087 = 65 := by
  decide

/-! ## Host commands -/

/-- R260. -/
theorem test_nop : sees (exec .nop p0) (fun t => decide (t = p0)) = true := by decide

/-- V-RC-1: the quantization boundary, and the wrap into bank 3. -/
theorem test_trig_quantized :
    sees (exec (.trig 1) (rec0 149 200 9)) (fun t => t.mem.trig == [(137, 1)]) = true ∧
      sees (exec (.trig 1) (rec0 150 200 9)) (fun t => t.mem.trig == [(138, 1)]) = true ∧
      sees (exec (.trig 0) { rec0 150 200 31 with host := { (rec0 150 200 31).host with bank := 3 } })
        (fun t => t.mem.trig == [(95, 1)]) = true := by decide

/-- V-RC-2, V-RC-4: the live pitch is recorded; nothing is recorded while record is off. -/
theorem test_trig_pitch :
    sees (exec (.trig 3) { rec0 5 200 9 with host := { (rec0 5 200 9).host with livePitch := #v[0, 0x1234] } })
        (fun t => t.mem == { trig := [(393, 1)], pitch := [(137, 0x1234)] } && t.latch.live[3]) = true ∧
      sees (exec (.trig 0) r0) (fun t => t.mem == r0.mem && t.latch.live[0]) = true := by decide

/-- R190. -/
theorem test_setpitch : sees (exec (.setpitch 1 0x0100) r0) (fun t => t.host.livePitch == #v[0, 0x0100]) = true := by
  decide

/-- R213. -/
theorem test_setnoise : sees (exec (.setnoise 64) r0) (fun t => t.host.noiseRate == 64) = true := by decide

/-- V-CT-1. -/
theorem test_setflag_reserved :
    sees (exec (.setflag (.reserved 6) true) r0) (fun t => t.statusWord == 0x00007FF0 && t.host.modeBits == 0) = true := by
  decide

/-- R237, V-RC-5: releasing the hold clears the counter and the block. -/
theorem test_setflag_release :
    sees (exec (.setflag .eraseHold false) { hold0 500 with host := { (hold0 500).host with eraseBlocked := true } })
      (fun t => t.host.eraseCount == 0 && !t.host.eraseBlocked && !t.host.eraseHold && t.host.record) = true := by decide

/-- R140, V-RC-7, V-RC-5b. -/
theorem test_play :
    sees (exec (.play false) (hold0 500)) (fun t => !t.host.play && !t.host.record && t.host.eraseCount == 0) = true ∧
      sees (exec (.play true) (hold0 500)) (fun t => t.host.play && t.host.record && t.host.eraseCount == 0) = true := by
  decide

/-- V-RC-7. -/
theorem test_rectoggle : sees (exec .rectoggle r0) (fun t => t.host.record && t.host.play) = true ∧
    sees (exec .rectoggle (hold0 0)) (fun t => !t.host.record && t.host.play) = true := by decide

/-- V-TB-5: the second and the third tap. -/
theorem test_tap :
    let s := { r0 with
      tick := { r0.tick with tickCounter := 32000 }
      host := { r0.host with tapGate := true, tapHist := #v[4000, 0], tapSlot := 1, tapCount := 1, prevTapTick := 16000 } }
    sees (exec .tap s) (fun t => t.host.tapHist == #v[4000, 4000] && t.host.tapSlot == 0 && t.host.tapCount == 2 &&
      t.host.prevTapTick == 32000 && t.host.stepLength == 4000) = true := by decide

/-- V-TB-6, V-TB-4: a mean of 0 is stored as 1, and a closed gate stops the tap. -/
theorem test_tap_corners :
    sees (exec .tap { r0 with host := { r0.host with tapGate := true, tapCount := 1, tapSlot := 1 } })
        (fun t => t.host.stepLength == 1) = true ∧
      sees (exec .tap r0) (fun t => decide (t = r0)) = true := by decide

/-- R172. -/
theorem test_bank : sees (exec (.bank 3) r0) (fun t => t.host.bank == 3 && (t.slotOf 5).toNat == 100) = true := by decide

/-- R147. -/
theorem test_step : sees (exec .step r0) (fun t => t.latch.step) = true := by decide

/-- V-RC-5: 799 counts erase nothing; V-RC-6: the 800th clears bank 0 with its slot 31. -/
theorem test_loopiter_counts : sees (exec .loopiter (hold0 798)) (fun t => t.host.eraseCount == 799) = true := by decide

theorem test_loopiter_erases :
    sees (exec .loopiter { hold0 799 with mem := { trig := [(30, 1), (31, 1), (32, 1)], pitch := [(31, 7), (128, 9)] } })
      (fun t => t.mem == { trig := [(32, 1)], pitch := [] } && t.host.eraseBlocked && t.host.eraseCount == 0) = true := by
  decide +kernel

/-- V-TB-7. -/
theorem test_settempo : sees (exec (.settempo 0) r0) (fun t => t.host.stepLength == 1) = true ∧
    sees (exec (.settempo 0x0FFFFFFF) r0) (fun t => t.host.stepLength == 0x0FFFFFFF) = true := by decide

/-- V-CT-7: the latches in STATUS. -/
theorem test_rdreg_status :
    sees (exec (.rdreg .status) { r0 with latch := { live := r0.latch.live.set 2 true, step := true } })
      (fun t => t.host.rdata == 0xA0007FE0) = true := by decide

/-- V-CT-2, V-CT-8: a reserved number, and the two halves of VIDX. -/
theorem test_rdreg_more :
    sees (exec (.rdreg (.reserved 30)) { r0 with host := { r0.host with rdata := 5 } })
        (fun t => t.host.rdata == 0 && t.host.cmdErr) = true ∧
      sees (exec (.rdreg (.vidx 1)) r0) (fun t => t.host.rdata == 0x00800000) = true := by decide

/-- V-CT-3 and P2's last line. -/
theorem test_rdseq :
    sees (exec (.rdseq (.reserved 0 3)) { r0 with host := { r0.host with rdata := 5 } })
        (fun t => t.host.rdata == 0 && t.host.cmdErr) = true ∧
      sees (exec (.rdseq (.pitch 1 2)) { r0 with mem := { r0.mem with pitch := [(130, 0x40)] } })
        (fun t => t.host.rdata == 0x40) = true := by decide

/-- V-CT-4. -/
theorem test_reservedF : sees (exec .reservedF r0) (fun t => t.statusWord == 0x00007FF0) = true := by decide

/-! ## Steps -/

/-- R88: a step takes the first word and leaves the rest; the word may stand after reset under any configuration. -/
theorem test_step_takes_word :
    sees (step { r0 with pending := [0x90000003, 0x10000000] })
        (fun t => t.host.bank == 3 && t.pending == [0x10000000]) = true ∧
      sees (step { r0 with pending := [0x00000000] }) (fun t => decide (t = r0)) = true := by decide

theorem test_step_from_reset : sees (step (State.reset.withFetchWord 32 0x60000001)) (fun t => t.host.play) = true := by
  decide

/-! ## Witnesses: the hypotheses of the statements are met -/

/-- A playing state on internal tempo whose next TICK sees `el` elapsed ticks, with step length 3. -/
def playing (el : Word) : State := { r0 with
  tick := { r0.tick with prevPlay := true, stepIndex := 4, prevStepIndex := 4, lastStepTick := 10, tickCounter := 9 + el }
  host := { r0.host with play := true, stepLength := 3 } }

/-- V0 in the middle of its table and V4 ended. -/
def sounding : State := { r0 with
  tick := { r0.tick with voices := r0.tick.voices.set 0 { acc := 64, idx := 1, active := true } } }

theorem witness_DecodeAfterEncode : Instr.wf (.rdseq (.pitch 1 127)) = true ∧
    Instr.wf (.settempo 0x0FFFFFFF) = true ∧ Instr.wf (.setflag (.reserved 15) false) = true := by decide

theorem witness_ReservedBitsAreIgnored : (0x2FFFFFF2 : Word) &&& fieldMask 0x2FFFFFF2 = 0x20000002 ∧
    (decode ((0x2FFFFFF2 : Word) &&& fieldMask 0x2FFFFFF2)).isReserved = false := by decide

theorem witness_EveryWordIsOneRow :
    ([0xF0000000, 0x50000600, 0xD000001C, 0xE0001100] : List Word).all (fun w => (decode w).isReserved) = true ∧
      ([0x50000500, 0xD000001B, 0xE0001200, 0xE0000000] : List Word).all (fun w => !(decode w).isReserved) = true := by
  decide

theorem witness_WordsMoveLittleEndian : ([0x02, 0x00, 0x00] : List Byte).length < 4 := by decide

theorem witness_StepAppliesTheNextWord :
    { r0 with pending := [0x10000000] }.pending = 0x10000000 :: ([] : List Word) ∧ r0.pending = [] := by decide

theorem witness_ConfigurationsAreChecked : ∃ c, Config.accept tcData = .ok c := ⟨tc, dif_pos tc.ok⟩

theorem witness_InternalTempo : ((playing 3).host.play = true ∧ (playing 3).host.extTempo = false) ∧
    ¬(playing 3).host.stepLength.toNat < ((playing 3).tick.tickCounter + 1 - (playing 3).tick.lastStepTick).toNat ∧
    (playing 4).host.stepLength.toNat < ((playing 4).tick.tickCounter + 1 - (playing 4).tick.lastStepTick).toNat := by
  decide

theorem witness_ExternalTempo : p0.host.play = true ∧ p0.host.extTempo = true ∧ p0.latch.step = true ∧
    { p0 with latch := r0.latch }.latch.step = false := by decide

/-- T0 has its live latch set, so V0 is triggered and V1 is not; with and without a stop just before. -/
theorem witness_StoppedTick :
    (liveTrigger 0 r0).host.play = false ∧
      ((0 : VoiceNo) ∈ (liveTrigger 0 r0).cfg.trackVoices[(0 : Track)] ∧ (liveTrigger 0 r0).latch.live[(0 : Track)] = true) ∧
      (∀ n : Track, (1 : VoiceNo) ∈ (liveTrigger 0 r0).cfg.trackVoices[n] → (liveTrigger 0 r0).latch.live[n] = false) ∧
      ¬((liveTrigger 0 r0).tick.prevPlay = true ∧ (liveTrigger 0 r0).cfg.stopResetsVoices = true) ∧
      ({ p0 with host := r0.host }.tick.prevPlay = true ∧ p0.cfg.stopResetsVoices = true) := by decide

/-- A TICK from step 31 to 0 retriggers, one from 4 to 5 does not; the prescaler at 4 and below it. -/
theorem witness_ClickScheduling :
    let s := { p0 with tick := { p0.tick with stepIndex := 31, prevStepIndex := 31 } }
    ((tickState s).tick.stepIndex ≠ s.tick.prevStepIndex ∧ (tickState s).tick.stepIndex.toNat % 4 = 0) ∧
      ¬((tickState p0).tick.stepIndex ≠ p0.tick.prevStepIndex ∧ (tickState p0).tick.stepIndex.toNat % 4 = 0) ∧
      p0.tick.clickDiv.toNat ≠ 4 ∧ { p0.tick with clickDiv := 4 }.clickDiv.toNat = 4 := by decide

/-- A run of stopped TICKs after a retrigger. -/
def fading : Nat → State
  | 0 => { r0 with tick := { r0.tick with clickAmp := 64 } }
  | k + 1 => tickState { fading k with host := r0.host }

/-- It meets the hypotheses for every n, 304 and 305 among them. -/
theorem witness_ClickEnvelope (n : Nat) : (fading 0).tick.clickAmp = 64 ∧ (fading 0).tick.clickDiv = 0 ∧
    ∀ k < n, ∃ u : State, u.tick = (fading k).tick ∧ exec .tick u = .next (fading (k + 1)) ∧
      ¬((fading (k + 1)).tick.stepIndex ≠ u.tick.prevStepIndex ∧ (fading (k + 1)).tick.stepIndex.toNat % 4 = 0) := by
  refine ⟨by decide, by decide, fun k _ => ⟨{ fading k with host := r0.host }, rfl, rfl, fun h => ?_⟩⟩
  have h31 : (fading (k + 1)).tick.stepIndex = 31 := by
    simp only [fading, tickState_stepIndex]
    exact (tickTime_stopped _ rfl).1
  rw [h31] at h
  exact absurd h.2 (by decide)

/-- A run of TICKs with step length 3 (V-TB-1). -/
def stepping (k : Nat) : State := Nat.rec (playing 1) (fun _ s => tickState s) k

theorem witness_StepPeriod : (3 : Word).toNat < 2 ^ 32 - 1 ∧
    (stepping 0).tick.lastStepTick = (stepping 0).tick.tickCounter ∧
    ∀ k ≤ (3 : Word).toNat, ∃ u : State, u.tick = (stepping k).tick ∧ u.host.play = true ∧ u.host.extTempo = false ∧
      u.host.stepLength = 3 ∧ exec .tick u = .next (stepping (k + 1)) := by
  have hh : ∀ k, (stepping k).host = (playing 1).host := by
    intro k
    induction k with
    | zero => rfl
    | succ k ih => rw [← ih]; exact tickState_host _
  refine ⟨by decide, by decide, fun k _ => ⟨stepping k, rfl, ?_, ?_, ?_, rfl⟩⟩ <;> rw [hh] <;> rfl

/-- A playing state, and one at another time with another latch and pattern, the same ticks after its last advance. -/
theorem witness_StepTiming :
    let s := playing 4
    let s' := liveTrigger 2 { s with tick := { s.tick with tickCounter := 2, lastStepTick := 0xFFFFFFFF } }
    s.tick.tickCounter - s.tick.lastStepTick = s'.tick.tickCounter - s'.tick.lastStepTick ∧
      s.tick.stepIndex = s'.tick.stepIndex ∧ s.host.stepLength = s'.host.stepLength ∧ s.host.play = s'.host.play ∧
      s.host.extTempo = s'.host.extTempo ∧ s.latch.step = s'.latch.step ∧ s.host.play = true ∧
      s.tick.tickCounter ≠ s'.tick.tickCounter := by decide

/-- P with trig[2][5] = 1: the slot, the sequenced trigger, and a live one. -/
def p2 : State := { p0 with mem := { trig := [(261, 1)], pitch := [(5, 128)] } }

theorem witness_Triggers : (4 : VoiceNo) ∈ p2.cfg.trackVoices[(2 : Track)] ∧
    (5 : Slot).toNat = (tickState p2).tick.stepIndex.toNat + p2.cfg.bankOffsets[p2.host.bank.toNat] ∧
    ((tickState p2).tick.stepIndex ≠ p2.tick.prevStepIndex ∧ p2.host.play = true ∧ p2.mem.readTrig 2 5 = 1) ∧
    (liveTrigger 2 p2).latch.live[(2 : Track)] = true := by decide

theorem witness_UntriggeredVoices :
    let s := { p2 with tick := { p2.tick with voices := p2.tick.voices.set 0 lastEntry } }
    (5 : Slot).toNat = (tickState s).tick.stepIndex.toNat + s.cfg.bankOffsets[s.host.bank.toNat] ∧
      (∀ n : Track, (0 : VoiceNo) ∈ s.cfg.trackVoices[n] → s.latch.live[n] = false ∧
        ¬((tickState s).tick.stepIndex ≠ s.tick.prevStepIndex ∧ s.host.play = true ∧ s.mem.readTrig n 5 = 1)) ∧
      ¬(s.host.play = false ∧ s.tick.prevPlay = true ∧ s.cfg.stopResetsVoices = true) ∧
      s.tick.voices[(0 : VoiceNo)].active = true ∧ s.tick.voices[(2 : VoiceNo)].active = false ∧
      (512 : Word).toNat = (s.tick.voices[(0 : VoiceNo)].acc.toNat + ((tickState s).inc 0).toNat) % 2 ^ 32 ∧
      (8 : Half).toNat = (512 : Word).toNat / 64 % 2 ^ 16 ∧ s.cfg.len[(0 : VoiceNo)] < (8 : Half).toNat := by decide

theorem witness_PitchedIncrements : (2 : Track).val = 2 + (0 : Melodic).val ∧ (4 : VoiceNo).val = 4 + (0 : Melodic).val ∧
    (5 : Slot).toNat = (tickState p2).tick.stepIndex.toNat + p2.cfg.bankOffsets[p2.host.bank.toNat] ∧
    (liveTrigger 2 p2).latch.live[(2 : Track)] = true ∧ p2.latch.live[(2 : Track)] = false ∧
    ((tickState p2).tick.stepIndex ≠ p2.tick.prevStepIndex ∧ p2.host.play = true ∧ p2.mem.readTrig 2 5 = 1) ∧
    p0.latch.live[(2 : Track)] = false ∧ p0.mem.readTrig 2 5 ≠ 1 := by decide

/-- An active voice after a TICK, and a voice on the last accumulator value inside its table. -/
theorem witness_VoiceReads : (tickState sounding).tick.voices[(0 : VoiceNo)].active = true ∧
    VoiceInv tc.len[(0 : VoiceNo)] { acc := 511, idx := 7, active := true } :=
  ⟨by decide, ⟨fun h => Bool.noConfusion h, by decide, by decide⟩⟩

/-- The last TICK inside the table and the first past it, for the longest table (R9). -/
theorem witness_VoiceRunLength : 64511 ≤ 64511 ∧ 64511 * (64 : Half).toNat < 64 * (64511 + 1) ∧
    ¬64512 * (64 : Half).toNat < 64 * (64511 + 1) := by decide

theorem witness_ReverseOnlyMirrorsReads : 7 ≤ tc.len[(3 : VoiceNo)] ∧ (3 : VoiceNo).val < 4 ∧ 4 ≤ (4 : VoiceNo).val := by
  decide

/-- The metronome at TICK 1229 (V-MX-2, V-MX-3) with V0 sounding. -/
def chorus (blend : Bool) : State := { metro with
  tick := { metro.tick with voices := sounding.tick.voices }, host := { metro.host with mixBlend := blend } }

/-- V0 sounds its entry 2, the others are silent. -/
def chorusVoices (v : VoiceNo) : Int := if v = 0 then 12 else 0

/-- Direct mode with the gate open: V0 at 12, the click at -100. -/
theorem witness_DirectModeOutput :
    let s := chorus false
    let t := tickState s
    s.host.mixBlend = false ∧ (∀ v : VoiceNo, t.tick.voices[v].active = false → chorusVoices v = 0) ∧
      (∀ v : VoiceNo, t.tick.voices[v].active = true →
        ∃ b : Byte, (s.cfg.table v)[if s.host.reverse = true ∧ v.val < 4
          then s.cfg.len[v] - t.tick.voices[v].idx.toNat else t.tick.voices[v].idx.toNat]? = some b ∧
          chorusVoices v = (b.toNat : Int) - 127) ∧
      (¬(s.host.play = true ∧ s.host.clickEn = true ∧ 4 ≤ t.tick.clickAmp.toNat) → (-100 : Int) = 0) ∧
      (s.host.play = true ∧ s.host.clickEn = true ∧ 4 ≤ t.tick.clickAmp.toNat →
        ∃ b : Byte, s.cfg.clickTable[t.tick.clickAcc.toNat / 64 % s.cfg.clickTable.length]? = some b ∧
          (-100 : Int) = ((b.toNat : Int) - 127) * t.tick.clickAmp.toNat / 64) :=
  ⟨by decide, by decide, fun v hv => ⟨139, by revert v; decide⟩, by decide, fun _ => ⟨27, by decide⟩⟩

/-- The gate closed: the same sound after the transport stopped, the click at 0. -/
theorem witness_DirectModeOutput_closed :
    ¬(r0.host.play = true ∧ r0.host.clickEn = true ∧ 4 ≤ (tickState r0).tick.clickAmp.toNat) := by decide

/-- Blend mode with the gate open: the noise at -77 beside them. -/
theorem witness_BlendModeOutput :
    let s := chorus true
    let t := tickState s
    s.host.mixBlend = true ∧ (∀ v : VoiceNo, t.tick.voices[v].active = false → chorusVoices v = 0) ∧
      (∀ v : VoiceNo, t.tick.voices[v].active = true →
        ∃ b : Byte, (s.cfg.table v)[if s.host.reverse = true ∧ v.val < 4
          then s.cfg.len[v] - t.tick.voices[v].idx.toNat else t.tick.voices[v].idx.toNat]? = some b ∧
          chorusVoices v = (b.toNat : Int) - 127) ∧
      (¬(s.host.play = true ∧ s.host.clickEn = true ∧ 4 ≤ t.tick.clickAmp.toNat) → (-100 : Int) = 0 ∧ (-77 : Int) = 0) ∧
      (s.host.play = true ∧ s.host.clickEn = true ∧ 4 ≤ t.tick.clickAmp.toNat →
        (∃ b : Byte, s.cfg.clickTable[t.tick.clickAcc.toNat / 64 % s.cfg.clickTable.length]? = some b ∧
          (-100 : Int) = ((b.toNat : Int) - 127) * t.tick.clickAmp.toNat / 64) ∧
        ∃ b : Byte, s.cfg.noiseTable[t.tick.noiseAcc.toNat / 64 % s.cfg.noiseTable.length]? = some b ∧
          (-77 : Int) = ((b.toNat : Int) - 127) * t.tick.clickAmp.toNat / 64) :=
  ⟨by decide, by decide, fun v hv => ⟨139, by revert v; decide⟩, by decide, fun _ => ⟨⟨27, by decide⟩, ⟨50, by decide⟩⟩⟩

/-- The four clauses at 0, 255, 256, 510, 511 and -1, and the whole range at its ends. -/
theorem witness_FoldBack : ((0 : Int) ≤ 0 ∧ (0 : Int) ≤ 255) ∧ ((0 : Int) ≤ 255 ∧ (255 : Int) ≤ 255) ∧
    ((255 : Int) < 256 ∧ (0 : Int) ≤ 256 - 2 * (256 - 255)) ∧ ((255 : Int) < 510 ∧ (0 : Int) ≤ 510 - 2 * (510 - 255)) ∧
    ((255 : Int) < 511 ∧ (511 : Int) - 2 * (511 - 255) < 0) ∧ (-1 : Int) < 0 ∧
    ((-255 : Int) ≤ -255 ∧ (-255 : Int) ≤ 510) ∧ ((-255 : Int) ≤ 510 ∧ (510 : Int) ≤ 510) := by decide

theorem witness_Nop : (0x0FFFFFFF : Word).extractLsb' 28 4 = 0 := by decide

/-- TICK_COUNT, the last register and a pitched increment read 0 after reset; STATUS does not. -/
theorem witness_ResetRegisterView : ((2 : BitVec 5).toNat ≤ 27 ∧ (2 : BitVec 5).toNat ∉ [0, 3, 11, 13, 17, 19, 21, 23]) ∧
    ((27 : BitVec 5).toNat ≤ 27 ∧ (27 : BitVec 5).toNat ∉ [0, 3, 11, 13, 17, 19, 21, 23]) := by decide

theorem witness_MixerRanges : metro.tick.clickAmp.toNat ≤ 64 := by decide

theorem witness_NotTick : Instr.loopiter ≠ .tick ∧ Instr.agent .loopiter = .host := by decide

theorem witness_Tap : r0.host.tapGate = false ∧
    ({ r0.host with tapGate := true, tapCount := 1 }).tapGate = true ∧
    (tapEvent { r0 with host := { r0.host with tapGate := true, tapCount := 1 } }).host.tapCount.toNat = 2 ∧
    (tapEvent { r0 with host := { r0.host with tapGate := true } }).host.tapCount.toNat ≠ 2 ∧
    (0 : Fin 2).val = r0.host.tapSlot.toNat ∧ (1 : Fin 2).val ≠ r0.host.tapSlot.toNat := by decide

/-- The quantization boundary of V-RC-1, both sides. -/
theorem witness_TrigRecords :
    let s := rec0 150 200 31
    let e := rec0 149 200 31
    s.host.record = true ∧ r0.host.record = false ∧
      (0 : StepNo).toNat = (if 3 * s.host.stepLength.toNat / 4 ≤ (s.tick.tickCounter - s.tick.lastStepTick).toNat
        then (s.tick.stepIndex.toNat + 1) % 32 else s.tick.stepIndex.toNat) ∧
      (31 : StepNo).toNat = (if 3 * e.host.stepLength.toNat / 4 ≤ (e.tick.tickCounter - e.tick.lastStepTick).toNat
        then (e.tick.stepIndex.toNat + 1) % 32 else e.tick.stepIndex.toNat) ∧
      (0 : Slot).toNat = (0 : StepNo).toNat + s.cfg.bankOffsets[s.host.bank.toNat] ∧
      (3 : Track).val = 2 + (1 : Melodic).val ∧ (3 : Track).val ≠ 2 + (0 : Melodic).val := by decide

theorem witness_ControlRegisterWrites : (0 : Melodic) ≠ 1 := by decide

theorem witness_Setflag : (0x50000501 : Word).extractLsb' 28 4 = 0x5 ∧ 6 ≤ (6 : BitVec 4).toNat ∧
    6 ≤ (15 : BitVec 4).toNat := by decide

theorem witness_Rectoggle : r0.host.record = false ∧ (hold0 0).host.record = true := by decide

theorem witness_Loopiter :
    ¬(r0.host.record = true ∧ r0.host.eraseHold = true ∧ r0.host.eraseBlocked = false) ∧
      ((hold0 798).host.record = true ∧ (hold0 798).host.eraseHold = true ∧ (hold0 798).host.eraseBlocked = false) ∧
      (hold0 798).host.eraseCount + 1 ≠ 800 ∧ (hold0 799).host.eraseCount + 1 = 800 ∧
      (∃ i < 32, (31 : Slot).toNat = (hold0 799).cfg.bankOffsets[(hold0 799).host.bank.toNat] + i) ∧
      ¬∃ i < 32, (32 : Slot).toNat = (hold0 799).cfg.bankOffsets[(hold0 799).host.bank.toNat] + i := by decide

/-- An armed hold and its LOOPITERs. -/
theorem witness_HoldErasesOnce :
    let f : Nat → State := fun k => Nat.rec (hold0 0) (fun _ s => loopIteration s) k
    (f 0).host.record = true ∧ (f 0).host.eraseHold = true ∧ (f 0).host.eraseBlocked = false ∧
      (f 0).host.eraseCount = 0 ∧ ∀ k, exec .loopiter (f k) = .next (f (k + 1)) :=
  ⟨rfl, rfl, rfl, rfl, fun _ => rfl⟩

theorem witness_Rdreg : (27 : BitVec 5).toNat ≤ 27 ∧ 28 ≤ (28 : BitVec 5).toNat := by decide

theorem witness_Rdseq : (2 : BitVec 2).toNat = 2 + (0 : Melodic).val ∧ (3 : BitVec 2).toNat = 2 + (1 : Melodic).val ∧
    (1 : BitVec 2).toNat < 2 := by decide

theorem witness_ReservedEncodings : (0xF0000000 : Word).extractLsb' 28 4 = 0xF ∧
    ([0xF0000000, 0x50000600, 0xD000001F, 0xE0001100] : List Word).all (fun w => (decode w).isReserved) = true := by decide

theorem witness_TransportWriters : (∀ b, Instr.loopiter ≠ .play b) ∧ Instr.loopiter ≠ .rectoggle ∧
    ¬((hold0 798).host.eraseArmed = true ∧ (hold0 798).host.eraseCount = 799) ∧
    ((hold0 0).host.record = true → (hold0 0).host.play = true) := by decide

/-- A TRIG while record is off, and a LOOPITER one count before the erase. -/
theorem witness_StorageWriters : (∀ n : Track, Instr.trig 2 = .trig n → r0.host.record = false) ∧
    ¬((hold0 798).host.eraseArmed = true ∧ (hold0 798).host.eraseCount = 799) ∧
    (0 : Track) ≠ 2 ∧ (2 : Track).val ≠ 2 + (1 : Melodic).val := by decide

theorem witness_Pulses : p0.host.play = true := by decide

theorem witness_BankWindows : r0.cfg.bankOffsets = #v[0, 31, 63, 95] ∧ (0 : BitVec 2) < 1 := by decide

theorem witness_LastSlot : (∀ b : Fin 4, r0.cfg.bankOffsets[b] ≤ 95) ∧ LastSlotsClear r0 :=
  ⟨by decide, fun _ => rfl, fun _ => rfl⟩

/-- A playing, recording state with a sounding voice meets the invariant, and it steps. -/
theorem witness_EveryStepKeepsInv :
    let s : State := { rec0 0 200 9 with
      tick := { (rec0 0 200 9).tick with voices := r0.tick.voices.set 0 lastEntry, tickCounter := 1, lastStepTick := 1 }
      mem := { trig := [(137, 1)], pitch := [] }
      pending := [0x10000000]
      emitted := [127] }
    Inv s ∧ sees (step s) (fun _ => true) = true := by
  refine ⟨⟨fun v => ?_, ⟨by decide, by decide, fun h => Bool.noConfusion h⟩, ⟨by decide, by decide⟩,
    ⟨by decide, by decide, by decide, by decide⟩, ⟨by decide, by decide, by decide, by decide⟩, ⟨by decide, by decide⟩,
    by decide⟩, by decide⟩
  have hv : ∀ v : VoiceNo, (r0.tick.voices.set 0 lastEntry)[v] = lastEntry ∨ (r0.tick.voices.set 0 lastEntry)[v] = Voice.idle := by
    decide
  have hl : ∀ v : VoiceNo, tc.len[v] = 7 := by decide
  show VoiceInv tc.len[v] (r0.tick.voices.set 0 lastEntry)[v]
  rw [hl v]
  rcases hv v with h | h <;> rw [h]
  · exact ⟨fun h => Bool.noConfusion h, by decide, by decide⟩
  · exact Voice.idle_inv 7

end Sys2Proof.Tests
end

section
/-! The checks of a configuration, each as the condition it stands for, and what acceptance means (`spec/00_scope.md`
R8, R9). -/

namespace Sys2Proof

/-! ## One check at a time -/

namespace ConfigData

variable (d : ConfigData)

theorem lengthsBounded_iff : d.lengthsBounded = true ↔ ∀ v : VoiceNo, d.len[v] ≤ maxLen := by
  simp [lengthsBounded]

theorem tablesLongEnough_iff : d.tablesLongEnough = true ↔ ∀ v : VoiceNo, d.len[v] + 1 ≤ (d.table v).length := by
  simp [tablesLongEnough]

theorem clickTableNonempty_iff : d.clickTableNonempty = true ↔ 1 ≤ d.clickTable.length := by
  simp [clickTableNonempty]

theorem noiseTableNonempty_iff : d.noiseTableNonempty = true ↔ 1 ≤ d.noiseTable.length := by
  simp [noiseTableNonempty]

/-- The routing test of one voice in one track: V4 only in T2, V5 only in T3, the others only in T0 and T1. -/
theorem routed_iff (t : Track) (v : VoiceNo) :
    (if v.val = 4 then t.val == 2 else if v.val = 5 then t.val == 3 else decide (t.val < 2)) = true ↔
      (v = 4 → t = 2) ∧ (v = 5 → t = 3) ∧ (v.val < 4 → t = 0 ∨ t = 1) := by
  revert t v; decide

theorem routingLegal_iff : d.routingLegal = true ↔
    ∀ t : Track, ((4 : VoiceNo) ∈ d.trackVoices[t] → t = 2) ∧ ((5 : VoiceNo) ∈ d.trackVoices[t] → t = 3) ∧
      ∀ v : VoiceNo, v.val < 4 → v ∈ d.trackVoices[t] → t = 0 ∨ t = 1 := by
  simp only [routingLegal, List.all_eq_true, List.mem_finRange, true_imp_iff, routed_iff]
  refine forall_congr' fun t => ⟨fun h => ?_, fun ⟨h4, h5, h03⟩ v hv => ?_⟩
  · exact ⟨fun hv => (h 4 hv).1 rfl, fun hv => (h 5 hv).2.1 rfl, fun v hlt hv => (h v hv).2.2 hlt⟩
  · exact ⟨fun e => h4 (e ▸ hv), fun e => h5 (e ▸ hv), fun hlt => h03 v hlt hv⟩

theorem clickPitchesOrdered_iff :
    d.clickPitchesOrdered = true ↔ d.clickIncLow < d.clickIncMid ∧ d.clickIncMid < d.clickIncHigh := by
  simp [clickPitchesOrdered]

theorem offsetsInRange_iff : d.offsetsInRange = true ↔ ∀ b : Fin 4, d.bankOffsets[b] + 31 ≤ 127 := by
  simp only [offsetsInRange, List.all_eq_true, List.mem_finRange, true_imp_iff, decide_eq_true_eq, Nat.add_comm 31]

theorem stepLengthPositive_iff : d.stepLengthPositive = true ↔ d.stepLengthReset ≠ 0 := by
  simp [stepLengthPositive, BitVec.pos_iff_ne_zero]

end ConfigData

/-! ## Acceptance -/

/-- Acceptance answers with the configuration it was given, together with its check (R9). -/
theorem Config.accept_eq_ok_iff (d : ConfigData) (c : Config) : Config.accept d = .ok c ↔ c.toConfigData = d := by
  constructor
  · intro h
    unfold Config.accept at h
    split at h
    · cases h; rfl
    · split_ifs at h
  · rintro rfl
    exact dif_pos c.ok

/-- Exactly the valid configurations are accepted (R9). -/
theorem Config.accepted_iff_valid (d : ConfigData) : (∃ c, Config.accept d = .ok c) ↔ d.valid = true := by
  simp only [Config.accept_eq_ok_iff]
  exact ⟨fun ⟨c, hc⟩ => hc ▸ c.ok, fun h => ⟨⟨d, h⟩, rfl⟩⟩

/-- Settles O13: acceptance is validity, and validity is the conjunction of the checks. -/
theorem configurationsAreChecked : Obligations.ConfigurationsAreChecked := by
  refine fun d => ⟨fun c => (Config.accept_eq_ok_iff d c).mp, (Config.accepted_iff_valid d).trans ?_⟩
  simp only [ConfigData.valid, Bool.and_eq_true, ConfigData.lengthsBounded_iff, ConfigData.tablesLongEnough_iff,
    ConfigData.clickTableNonempty_iff, ConfigData.noiseTableNonempty_iff, ConfigData.routingLegal_iff,
    ConfigData.clickPitchesOrdered_iff, ConfigData.offsetsInRange_iff, ConfigData.stepLengthPositive_iff,
    maxLen, forall_and, and_assoc]

end Sys2Proof
end

section
/-! Where a voice reads its table (`spec/43_voices.md` R184, R186). -/

namespace Sys2Proof.Machine

/-- An index in the table stays in it when it is mirrored (R184). -/
theorem readAddr_le {len idx : Nat} (h : idx ≤ len) (reverse : Bool) (v : VoiceNo) :
    readAddr reverse v len idx ≤ len := by
  unfold readAddr
  split
  · exact Nat.sub_le len idx
  · exact h

/-- A voice active after a TICK has its index in its table (R186). -/
theorem tickState_voice_index_le (s : State) (v : VoiceNo) (h : (tickState s).tick.voices[v].active = true) :
    (tickState s).tick.voices[v].idx.toNat ≤ s.cfg.len[v] := by
  rw [tickState_voices] at h ⊢
  exact Voice.next_index_le _ _ _ _ _ h

/-- Settles O25: the TICK's voice step bounds the index, the configuration's checks bound the table, and the voice
invariant leaves room for one increment. -/
theorem voiceReadsStayInTheTable : Obligations.VoiceReadsStayInTheTable := by
  refine ⟨fun s => ⟨tickState s, exec_tick s, fun v hv => ?_⟩, fun cfg v x inc hx => ?_⟩
  · have hidx := tickState_voice_index_le s v hv
    exact ⟨hidx, fun reverse => ⟨readAddr_le hidx reverse v,
      Nat.lt_of_lt_of_le (Nat.lt_succ_of_le (readAddr_le hidx reverse v)) (s.cfg.table_length v)⟩⟩
  · have hlen : cfg.len[v] ≤ 64511 := cfg.len_le v
    have hacc := hx.acc_in_table
    have hinc := inc.isLt
    have hadd := (Voice.advance_spec (cfg.len_le v) hx inc).1
    exact ⟨by omega, hadd, by omega, by omega⟩

end Sys2Proof.Machine
end

section
/-! The state an operation leaves. Every operation completes (`spec/60_exceptions.md` R280), so its effect is a function
of the state, and the fields it keeps are equations about that function (`spec/10_state.md` R57). -/

namespace Sys2Proof.Machine

/-- The state `exec` answers (R280); `exec_eq_after` says that it always answers one. -/
def after (i : Instr) (s : State) : State :=
  match exec i s with
  | .next t => t
  | .fault _ | .refused _ => s

variable (s : State)

/-- Every operation completes (R280). -/
theorem exec_eq_after (i : Instr) : exec i s = .next (after i s) := by cases i <;> rfl

/-! ## What every operation keeps -/

@[simp] theorem after_cfg (i : Instr) : (after i s).cfg = s.cfg := by
  cases i <;> simp [after]

@[simp] theorem after_pending (i : Instr) : (after i s).pending = s.pending := by
  cases i <;> simp [after]

/-! ## What every host command keeps -/

/-- TICK is the one operation of the timer (R108). -/
theorem agent_eq_host_iff (i : Instr) : i.agent = .host ↔ i ≠ .tick := by
  cases i <;> simp [Instr.agent]

theorem after_tick_of_ne {i : Instr} (h : i ≠ .tick) : (after i s).tick = s.tick := by
  cases i with
  | tick => exact absurd rfl h
  | _ => simp [after]

theorem after_emitted_of_ne {i : Instr} (h : i ≠ .tick) : (after i s).emitted = s.emitted := by
  cases i with
  | tick => exact absurd rfl h
  | _ => simp [after]

/-- The live latch of track n is set by TRIG n and by no other host command (R44, R170). -/
theorem after_live_of_ne {i : Instr} (h : i ≠ .tick) (n : Track) :
    (after i s).latch.live[n] = (s.latch.live[n] || decide (i = .trig n)) := by
  cases i with
  | tick => exact absurd rfl h
  | trig k =>
    have hset : (after (.trig k) s).latch.live = s.latch.live.set k true := by simp [after]
    simp only [hset, Fin.getElem_fin, Vector.getElem_set, Instr.trig.injEq, Fin.ext_iff]
    split <;> simp [*]
  | _ => simp [after]

/-- The step latch is set by STEP and by no other host command (R37, R147). -/
theorem after_stepLatch_of_ne {i : Instr} (h : i ≠ .tick) :
    (after i s).latch.step = (s.latch.step || decide (i = .step)) := by
  cases i with
  | tick => exact absurd rfl h
  | _ => simp [after]

/-- Settles O35: the fields of TICK and the latches, one equation each. -/
theorem hostCommandsKeepTickFields : Obligations.HostCommandsKeepTickFields := fun i s hi =>
  have h := (agent_eq_host_iff i).mp hi
  ⟨after i s, exec_eq_after s i, after_tick_of_ne s h, after_cfg s i, after_emitted_of_ne s h, after_live_of_ne s h,
    after_stepLatch_of_ne s h⟩

/-! ## Steps and runs -/

/-- Settles O7, from what a step takes off the queue. -/
theorem stepAppliesTheNextWord : Obligations.StepAppliesTheNextWord :=
  ⟨fun s _ _ h => step_cons s h, step_nil⟩

/-- A step goes on and consumes one pending word, if there is one (R88). -/
theorem step_pending : ∃ t, step s = .next t ∧ t.pending = s.pending.drop 1 := by
  cases hp : s.pending with
  | nil => exact ⟨s, step_nil s hp, hp⟩
  | cons w rest => exact ⟨_, (step_cons s hp).trans (exec_eq_after _ _), by simp⟩

/-- A run whose first step goes on is a run from the state that step leaves. -/
theorem run_succ_of_step {s u : State} (h : step s = .next u) (k : Nat) :
    Sys2Proof.core.run (k + 1) s = Sys2Proof.core.run k u := by
  have hstep : Sys2Proof.core.step s = .next u := h
  simp only [Host.Core.run, hstep]

/-- So k steps go on and consume k words (R88, R294). -/
theorem run_pending (k : Nat) : ∃ t, Sys2Proof.core.run k s = .next t ∧ t.pending = s.pending.drop k := by
  induction k generalizing s with
  | zero => exact ⟨s, rfl, rfl⟩
  | succ k ih =>
    obtain ⟨u, hu, hup⟩ := step_pending s
    obtain ⟨t, ht, htp⟩ := ih u
    exact ⟨t, (run_succ_of_step hu k).trans ht, by rw [htp, hup, List.drop_drop, Nat.add_comm]⟩

/-- Settles O9: a run of any length goes on, and its queue is the old one without the words it took. -/
theorem runConsumesOperationsInOrder : Obligations.RunConsumesOperationsInOrder := fun k s =>
  ⟨fun j => (run_pending s j).imp fun _ ⟨ht, _⟩ => ht, run_pending s k⟩

end Sys2Proof.Machine
end

section
/-! The host registers that TAP, LOOPITER, SETFLAG, RDREG and RDSEQ never write, from their frames (`spec/10_state.md`
R57). -/

namespace Sys2Proof.Machine

variable (s : State)

@[simp] theorem tapEvent_play : (tapEvent s).host.play = s.host.play := by rw [tapEvent_frame]
@[simp] theorem tapEvent_record : (tapEvent s).host.record = s.host.record := by rw [tapEvent_frame]
@[simp] theorem tapEvent_eraseHold : (tapEvent s).host.eraseHold = s.host.eraseHold := by rw [tapEvent_frame]
@[simp] theorem tapEvent_eraseCount : (tapEvent s).host.eraseCount = s.host.eraseCount := by rw [tapEvent_frame]
@[simp] theorem tapEvent_eraseBlocked : (tapEvent s).host.eraseBlocked = s.host.eraseBlocked := by rw [tapEvent_frame]
@[simp] theorem tapEvent_cmdErr : (tapEvent s).host.cmdErr = s.host.cmdErr := by rw [tapEvent_frame]

@[simp] theorem loopIteration_stepLength : (loopIteration s).host.stepLength = s.host.stepLength := by
  rw [loopIteration_frame]
@[simp] theorem loopIteration_tapHist : (loopIteration s).host.tapHist = s.host.tapHist := by rw [loopIteration_frame]
@[simp] theorem loopIteration_tapCount : (loopIteration s).host.tapCount = s.host.tapCount := by
  rw [loopIteration_frame]
@[simp] theorem loopIteration_cmdErr : (loopIteration s).host.cmdErr = s.host.cmdErr := by rw [loopIteration_frame]

@[simp] theorem setFlag_stepLength (id : FlagSel) (b : Bool) :
    (setFlag id b s).host.stepLength = s.host.stepLength := by
  rw [setFlag_frame]
@[simp] theorem setFlag_tapHist (id : FlagSel) (b : Bool) : (setFlag id b s).host.tapHist = s.host.tapHist := by
  rw [setFlag_frame]
@[simp] theorem setFlag_tapCount (id : FlagSel) (b : Bool) : (setFlag id b s).host.tapCount = s.host.tapCount := by
  rw [setFlag_frame]
@[simp] theorem setFlag_play (id : FlagSel) (b : Bool) : (setFlag id b s).host.play = s.host.play := by
  rw [setFlag_frame]
@[simp] theorem setFlag_record (id : FlagSel) (b : Bool) : (setFlag id b s).host.record = s.host.record := by
  rw [setFlag_frame]

@[simp] theorem readRegister_stepLength (r : RegSel) : (readRegister r s).host.stepLength = s.host.stepLength := by
  rw [readRegister_frame]
@[simp] theorem readRegister_tapHist (r : RegSel) : (readRegister r s).host.tapHist = s.host.tapHist := by
  rw [readRegister_frame]
@[simp] theorem readRegister_tapCount (r : RegSel) : (readRegister r s).host.tapCount = s.host.tapCount := by
  rw [readRegister_frame]
@[simp] theorem readRegister_play (r : RegSel) : (readRegister r s).host.play = s.host.play := by
  rw [readRegister_frame]
@[simp] theorem readRegister_record (r : RegSel) : (readRegister r s).host.record = s.host.record := by
  rw [readRegister_frame]
@[simp] theorem readRegister_eraseHold (r : RegSel) : (readRegister r s).host.eraseHold = s.host.eraseHold := by
  rw [readRegister_frame]
@[simp] theorem readRegister_eraseCount (r : RegSel) : (readRegister r s).host.eraseCount = s.host.eraseCount := by
  rw [readRegister_frame]
@[simp] theorem readRegister_eraseBlocked (r : RegSel) :
    (readRegister r s).host.eraseBlocked = s.host.eraseBlocked := by
  rw [readRegister_frame]

@[simp] theorem readSlot_stepLength (q : SeqSel) : (readSlot q s).host.stepLength = s.host.stepLength := by
  rw [readSlot_frame]
@[simp] theorem readSlot_tapHist (q : SeqSel) : (readSlot q s).host.tapHist = s.host.tapHist := by rw [readSlot_frame]
@[simp] theorem readSlot_tapCount (q : SeqSel) : (readSlot q s).host.tapCount = s.host.tapCount := by
  rw [readSlot_frame]
@[simp] theorem readSlot_play (q : SeqSel) : (readSlot q s).host.play = s.host.play := by rw [readSlot_frame]
@[simp] theorem readSlot_record (q : SeqSel) : (readSlot q s).host.record = s.host.record := by rw [readSlot_frame]
@[simp] theorem readSlot_eraseHold (q : SeqSel) : (readSlot q s).host.eraseHold = s.host.eraseHold := by
  rw [readSlot_frame]
@[simp] theorem readSlot_eraseCount (q : SeqSel) : (readSlot q s).host.eraseCount = s.host.eraseCount := by
  rw [readSlot_frame]
@[simp] theorem readSlot_eraseBlocked (q : SeqSel) : (readSlot q s).host.eraseBlocked = s.host.eraseBlocked := by
  rw [readSlot_frame]

end Sys2Proof.Machine
end

section
/-! Every operation keeps the invariant (`Sys2Proof.Machine.Inv`), part by part. -/

namespace Sys2Proof.Machine

variable {s : State}

/-! ## The step length -/

theorem atLeastOne_pos (w : Word) : 0 < (atLeastOne w).toNat := by
  rw [atLeastOne_toNat]; omega

theorem tapEvent_stepLength_pos (h : 0 < s.host.stepLength.toNat) : 0 < (tapEvent s).host.stepLength.toNat := by
  unfold tapEvent applyTaps
  split
  · split
    · exact atLeastOne_pos _
    · exact h
  · exact h

/-- Only TAP and SETTEMPO write the step length, and both store at least 1 (R33, R141, R145). -/
theorem after_stepLength_pos (h : 0 < s.host.stepLength.toNat) (i : Instr) :
    0 < (after i s).host.stepLength.toNat := by
  cases i with
  | tap => exact tapEvent_stepLength_pos h
  | settempo val => exact atLeastOne_pos _
  | _ => simpa [after] using h

/-! ## The tap history -/

/-- A tap interval rescaled by TAP_SHIFT has 30 bits (R34, R141). -/
theorem tapInterval_lt (w : Word) : (w >>> tapShift).toNat < 2 ^ 30 := by
  have := w.isLt
  simp only [tapShift, BitVec.toNat_ushiftRight, Nat.shiftRight_eq_div_pow]
  omega

theorem recordTap_tapInv (h : TapInv s.host) : TapInv (recordTap s).host where
  count_le := by
    have hc : (recordTap s).host.tapCount.toNat = min (s.host.tapCount.toNat + 1) 2 := tapCount_next _
    omega
  hist_lt i := by
    have hh := h.hist_lt i
    simp only [recordTap, Fin.getElem_fin, Vector.getElem_set] at hh ⊢
    split
    · exact tapInterval_lt _
    · exact hh

theorem tapEvent_tapInv (h : TapInv s.host) : TapInv (tapEvent s).host := by
  unfold tapEvent
  split
  · exact (recordTap_tapInv h).congr (by simp)
  · exact h

/-- Only TAP writes the tap history (R141). -/
theorem after_tapInv (h : TapInv s.host) (i : Instr) : TapInv (after i s).host := by
  cases i with
  | tap => exact tapEvent_tapInv h
  | _ => exact h.congr (by simp [after])

/-! ## The recorder -/

/-- With the erase counter at 0, what is left of the recorder's invariant (R40, R51). -/
theorem RecorderInv.of_count_zero {h : HostRegs} (hc : h.eraseCount = 0) (hp : h.record = true → h.play = true)
    (hb : h.eraseBlocked = true → h.eraseHold = true) : RecorderInv h where
  record_plays := hp
  count_lt := by simp [hc]
  count_armed hne := absurd hc hne
  blocked_held := hb

theorem setTransport_recorderInv (h : RecorderInv s.host) (b : Bool) : RecorderInv (setTransport b s).host :=
  .of_count_zero rfl (fun hr => (Bool.and_eq_true_iff.mp hr).1) h.blocked_held

theorem toggleRecord_recorderInv (h : RecorderInv s.host) : RecorderInv (toggleRecord s).host :=
  .of_count_zero rfl (fun hr => Bool.or_eq_true_iff.mpr (.inr hr)) h.blocked_held

/-- Counting stays below the threshold unless it reaches it (R242). -/
theorem countHold_recorderInv (h : RecorderInv s.host) (harmed : s.host.eraseArmed = true)
    (h8 : s.host.eraseCount + 1 ≠ 800) : RecorderInv (countHold s).host where
  record_plays := h.record_plays
  count_lt := by
    have hlt := h.count_lt
    rw [countHold_host]
    bv_omega
  count_armed _ := harmed
  blocked_held := h.blocked_held

/-- The erase runs while the hold lasts, and sets play (R236). -/
theorem eraseBank_recorderInv (hold : s.host.eraseHold = true) : RecorderInv (eraseBank s).host :=
  .of_count_zero rfl (fun _ => rfl) fun _ => hold

theorem loopIteration_recorderInv (h : RecorderInv s.host) : RecorderInv (loopIteration s).host := by
  rcases loopIteration_cases s with ⟨-, heq⟩ | ⟨harmed, h8, heq⟩ | ⟨harmed, -, heq⟩
  · rw [heq]; exact .of_count_zero rfl h.record_plays h.blocked_held
  · rw [heq]; exact countHold_recorderInv h harmed h8
  · rw [heq]; exact eraseBank_recorderInv ((eraseArmed_iff _).mp harmed).2.1

/-- Setting the hold keeps an armed erase armed (R52, R261). -/
theorem holdErase_recorderInv {h : HostRegs} (hi : RecorderInv h) : RecorderInv { h with eraseHold := true } where
  record_plays := hi.record_plays
  count_lt := hi.count_lt
  count_armed hne := by
    obtain ⟨hr, -, hb⟩ := (eraseArmed_iff h).mp (hi.count_armed hne)
    exact (eraseArmed_iff _).mpr ⟨hr, rfl, hb⟩
  blocked_held _ := rfl

theorem setFlag_recorderInv (h : RecorderInv s.host) (id : FlagSel) (b : Bool) :
    RecorderInv (setFlag id b s).host := by
  cases id with
  | eraseHold =>
    cases b with
    | true => exact holdErase_recorderInv h
    | false => exact .of_count_zero rfl h.record_plays nofun
  | _ => exact h.congr rfl

/-- PLAY, RECTOGGLE, LOOPITER and SETFLAG are the writers of the recorder's registers (R57). -/
theorem after_recorderInv (h : RecorderInv s.host) (i : Instr) : RecorderInv (after i s).host := by
  cases i with
  | setflag id b => exact setFlag_recorderInv h id b
  | play b => exact setTransport_recorderInv h b
  | rectoggle => exact toggleRecord_recorderInv h
  | loopiter => exact loopIteration_recorderInv h
  | _ => exact h.congr (by simp [after])

/-! ## The storage -/

theorem liveTrigger_wf (h : s.mem.wf = true) (n : Track) : (liveTrigger n s).mem.wf = true := by
  unfold liveTrigger
  split
  · exact recordWrite_wf (s := setLive n s) h n
  · exact h

theorem loopIteration_wf (h : s.mem.wf = true) : (loopIteration s).mem.wf = true := by
  rcases loopIteration_cases s with ⟨-, heq⟩ | ⟨-, -, heq⟩ | ⟨-, -, heq⟩
  · rw [heq]; exact h
  · rw [heq]; exact h
  · rw [heq]; exact eraseBank_wf (s := countHold s) h

/-- Only TRIG and LOOPITER write the storage, and both keep its canonical form (R80). -/
theorem after_mem_wf (h : s.mem.wf = true) (i : Instr) : (after i s).mem.wf = true := by
  cases i with
  | trig n => exact liveTrigger_wf h n
  | loopiter => exact loopIteration_wf h
  | _ => simpa [after] using h

/-! ## TICK -/

/-- A TICK leaves no pending step edge and rests a stopped transport at step 31 (R123, R133). -/
theorem tickState_timeInv (h : 0 < s.host.stepLength.toNat) : TimeInv (tickState s) where
  stepLength_pos := by simpa using h
  no_pending_edge := by simp
  stopped_at_31 hp := by simpa using tickTime_stopped s (by simpa using hp)

/-- The pitch of a quarter step is one of the three configured pitches (R137). -/
theorem clickPitch_mem (cfg : Config) (step : StepNo) : clickPitch cfg step = cfg.clickIncLow ∨
    clickPitch cfg step = cfg.clickIncMid ∨ clickPitch cfg step = cfg.clickIncHigh := by
  unfold clickPitch
  split
  · exact .inl rfl
  · split
    · exact .inr (.inl rfl)
    · exact .inr (.inr rfl)

/-- One decay leaves no amplitude of 1, 2 or 3 (R138, R139). -/
theorem decayedAmp_zero_or_audible (a : BitVec 7) : decayedAmp a = 0 ∨ 4 ≤ (decayedAmp a).toNat := by
  have hnat := decayedAmp_toNat a
  split at hnat
  · exact .inl (BitVec.eq_of_toNat_eq hnat)
  · exact .inr (by omega)

theorem clickDecay_amp_zero_or_audible (h : s.tick.clickAmp = 0 ∨ 4 ≤ s.tick.clickAmp.toNat) :
    (clickDecay s).tick.clickAmp = 0 ∨ 4 ≤ (clickDecay s).tick.clickAmp.toNat := by
  rcases clickDecay_spec s with ⟨-, -, hamp⟩ | ⟨-, -, hamp⟩
  · rw [hamp]; exact decayedAmp_zero_or_audible _
  · rw [hamp]; exact h

/-- The prescaler counts 0 to 4 (R138). -/
theorem clickDecay_div_lt (h : s.tick.clickDiv.toNat < 5) : (clickDecay s).tick.clickDiv.toNat < 5 := by
  rcases clickDecay_spec s with ⟨-, hdiv, -⟩ | ⟨h4, hdiv, -⟩
  · rw [hdiv]; decide
  · rw [hdiv]; bv_omega

/-- A retrigger and a decay both keep the click inside its ranges (R137 to R139). -/
theorem tickState_clickInv (h : ClickInv s) : ClickInv (tickState s) where
  amp_le := tickState_clickAmp_le s h.amp_le
  amp_zero_or_audible := by
    rw [tickState_clickAmp]
    rcases clickEnvelope_spec (tickTime s) (tickTime s).stepEdge with ⟨-, -, -, hamp, -⟩ | ⟨-, -, hamp, -⟩
    · rw [hamp]; decide
    · rw [hamp]; exact clickDecay_amp_zero_or_audible (by simpa using h.amp_zero_or_audible)
  div_lt := by
    rw [tickState_clickDiv]
    rcases clickEnvelope_spec (tickTime s) (tickTime s).stepEdge with ⟨-, -, -, -, hdiv⟩ | ⟨-, -, -, hdiv⟩
    · rw [hdiv]; decide
    · rw [hdiv]; exact clickDecay_div_lt (by simpa using h.div_lt)
  inc_is_a_pitch := by
    rw [tickState_clickInc, tickState_cfg]
    rcases clickEnvelope_spec (tickTime s) (tickTime s).stepEdge with ⟨-, -, hinc, -, -⟩ | ⟨-, hinc, -, -⟩
    · rw [hinc, tickTime_cfg]; exact clickPitch_mem _ _
    · rw [hinc, tickTime_clickInc]; exact h.inc_is_a_pitch

/-- A TICK counts one tick and emits one byte, its sample (R125, R130). -/
theorem tickState_streamInv (h : StreamInv s) : StreamInv (tickState s) where
  one_byte_per_tick := by
    rw [tickState_tickCounter, tickState_emitted, h.one_byte_per_tick, List.length_append, List.length_singleton,
      BitVec.ofNat_add]
    rfl
  sample_is_last := by simp [tickState_emitted]

theorem tickState_inv (h : Inv s) : Inv (tickState s) where
  voices v := by
    rw [tickState_voices, tickState_cfg]
    exact Voice.next_inv (s.cfg.len_le v) (h.voices v) _ _ _
  time := tickState_timeInv h.time.stepLength_pos
  tap := by simpa using h.tap
  click := tickState_clickInv h.click
  recorder := by simpa using h.recorder
  stream := tickState_streamInv h.stream
  memory := by simpa using h.memory

/-! ## Every step -/

theorem after_inv (h : Inv s) (i : Instr) : Inv (after i s) := by
  by_cases hi : i = .tick
  · subst hi; exact tickState_inv h
  · exact h.of_host (after_cfg s i) (after_tick_of_ne s hi) (after_emitted_of_ne s hi) (after_mem_wf h.memory i)
      (after_stepLength_pos h.time.stepLength_pos i) (after_tapInv h.tap i) (after_recorderInv h.recorder i)

/-- A step idles or leaves what its operation leaves. -/
theorem step_cases {t : State} (h : step s = .next t) :
    (s.pending = [] ∧ t = s) ∨
      ∃ w rest, s.pending = w :: rest ∧ t = after (decode w) { s with pending := rest } := by
  cases hp : s.pending with
  | nil => exact .inl ⟨rfl, Host.Outcome.next.inj (h.symm.trans (step_nil s hp))⟩
  | cons w rest =>
    rw [step_cons s hp, exec_eq_after] at h
    exact .inr ⟨w, rest, rfl, (Host.Outcome.next.inj h).symm⟩

/-- Settles O59: an idle step keeps the state, and every operation keeps each part of the invariant. -/
theorem everyStepKeepsInv : Obligations.EveryStepKeepsInv := by
  intro s t hs hstep
  rcases step_cases hstep with ⟨-, rfl⟩ | ⟨w, rest, -, rfl⟩
  · exact hs
  · exact after_inv (hs.pending rest) (decode w)

end Sys2Proof.Machine
end

section
/-! Which operations write cmdErr, the transport, record and the storage (`spec/10_state.md` R53, R57, R80). -/

namespace Sys2Proof.Machine

variable {s : State}

/-! ## The command error -/

theorem setFlag_cmdErr (id : FlagSel) (b : Bool) :
    (setFlag id b s).host.cmdErr = (s.host.cmdErr || (Instr.setflag id b).isReserved) := by
  cases id with
  | reserved id => simp [setFlag, Instr.isReserved]
  | eraseHold => cases b <;> simp [setFlag, HostRegs.releaseHold, Instr.isReserved]
  | _ => simp [setFlag, Instr.isReserved]

theorem readRegister_cmdErr (r : RegSel) :
    (readRegister r s).host.cmdErr = (s.host.cmdErr || (Instr.rdreg r).isReserved) := by
  cases r <;> simp [readRegister, Instr.isReserved]

theorem readSlot_cmdErr (q : SeqSel) :
    (readSlot q s).host.cmdErr = (s.host.cmdErr || (Instr.rdseq q).isReserved) := by
  cases q <;> simp [readSlot, Instr.isReserved]

/-- Settles O52: three operations have a reserved form, the opcode 0xF is one, and no other operation writes cmdErr. -/
theorem cmdErrIsSticky : Obligations.CmdErrIsSticky := by
  refine fun i s => ⟨after i s, exec_eq_after s i, ?_⟩
  cases i with
  | setflag id b => exact setFlag_cmdErr id b
  | rdreg r => exact readRegister_cmdErr r
  | rdseq q => exact readSlot_cmdErr q
  | _ => simp [after, Instr.isReserved]

/-! ## A LOOPITER that does not erase -/

/-- An armed LOOPITER erases exactly from a count of 799 (R242). -/
theorem eraseCount_succ_eq_iff (c : BitVec 10) : c + 1 = 800 ↔ c = 799 := by
  constructor <;> intro h <;> bv_omega

/-- Short of the erase a LOOPITER writes the erase counter and nothing else (R242). -/
theorem loopIteration_of_not_erase (h : ¬(s.host.eraseArmed = true ∧ s.host.eraseCount = 799)) :
    ∃ c, loopIteration s = { s with host := { s.host with eraseCount := c } } := by
  rcases loopIteration_cases s with ⟨-, heq⟩ | ⟨-, -, heq⟩ | ⟨harmed, h8, -⟩
  · exact ⟨0, heq⟩
  · exact ⟨s.host.eraseCount + 1, heq⟩
  · exact absurd ⟨harmed, (eraseCount_succ_eq_iff _).mp h8⟩ h

/-! ## Transport and record -/

/-- PLAY, RECTOGGLE and the erase are the only writers of play and record (R39, R40, R262). -/
theorem after_play_record {i : Instr} (hplay : ∀ b, i ≠ .play b) (hrec : i ≠ .rectoggle)
    (hloop : i = .loopiter → ¬(s.host.eraseArmed = true ∧ s.host.eraseCount = 799)) :
    (after i s).host.play = s.host.play ∧ (after i s).host.record = s.host.record := by
  cases i with
  | play b => exact absurd rfl (hplay b)
  | rectoggle => exact absurd rfl hrec
  | loopiter =>
    obtain ⟨c, hc⟩ := loopIteration_of_not_erase (hloop rfl)
    simp [after, hc]
  | _ => simp [after]

theorem loopIteration_record_plays (h : s.host.record = true → s.host.play = true) :
    (loopIteration s).host.record = true → (loopIteration s).host.play = true := by
  rcases loopIteration_cases s with ⟨-, heq⟩ | ⟨-, -, heq⟩ | ⟨-, -, heq⟩
  · rw [heq]; exact h
  · rw [heq]; exact h
  · rw [heq]; exact fun _ => rfl

/-- Every operation keeps "record implies play" (R40). -/
theorem after_record_plays (h : s.host.record = true → s.host.play = true) (i : Instr) :
    (after i s).host.record = true → (after i s).host.play = true := by
  cases i with
  | play b => exact fun hr => (Bool.and_eq_true_iff.mp hr).1
  | rectoggle => exact fun hr => Bool.or_eq_true_iff.mpr (.inr hr)
  | loopiter => exact loopIteration_record_plays h
  | _ => simpa [after] using h

/-- Settles O53, from the three writers and what each of them writes. -/
theorem transportAndRecordWriters : Obligations.TransportAndRecordWriters :=
  ⟨fun i s hplay hrec hloop => ⟨after i s, exec_eq_after s i, after_play_record hplay hrec hloop⟩,
    fun i s h => ⟨after i s, exec_eq_after s i, after_record_plays h i⟩⟩

/-! ## Storage -/

/-- A recording TRIG and the erase are the only writers of the storage (R80). -/
theorem after_mem {i : Instr} (htrig : ∀ n, i = .trig n → s.host.record = false)
    (hloop : i = .loopiter → ¬(s.host.eraseArmed = true ∧ s.host.eraseCount = 799)) :
    (after i s).mem = s.mem := by
  cases i with
  | trig n => simp [after, liveTrigger_mem, htrig n rfl]
  | loopiter =>
    obtain ⟨c, hc⟩ := loopIteration_of_not_erase (hloop rfl)
    simp [after, hc]
  | _ => simp [after]

/-- TRIG writes trigger slots of its own track only (R232). -/
theorem liveTrigger_readTrig_of_ne {n k : Track} (h : k ≠ n) (a : Slot) :
    (liveTrigger n s).mem.readTrig k a = s.mem.readTrig k a := by
  rw [liveTrigger_mem]
  split
  · split <;> simp [h]
  · rfl

/-- TRIG writes pitch slots of its own melodic index only (R232). -/
theorem liveTrigger_readPitch_of_ne {n : Track} {m : Melodic} (h : n.val ≠ 2 + m.val) (a : Slot) :
    (liveTrigger n s).mem.readPitch m a = s.mem.readPitch m a := by
  rw [liveTrigger_mem]
  split
  · split
    · next i hi =>
      have hne : m ≠ i := fun he => h ((melodicOf_iff n m).mp (he ▸ hi))
      simp [hne]
    · simp
  · rfl

/-- Settles O54, from the two writers of the storage and the slots a TRIG leaves. -/
theorem storageWriters : Obligations.StorageWriters :=
  ⟨fun i s htrig hloop => ⟨after i s, exec_eq_after s i, after_mem htrig hloop⟩,
    fun n s => ⟨liveTrigger n s, exec_trig s n, fun _ a hk => liveTrigger_readTrig_of_ne hk a,
      fun _ a hm => liveTrigger_readPitch_of_ne hm a⟩⟩

end Sys2Proof.Machine
end

section
/-! A run of LOOPITERs under an armed hold (`spec/45_recorder.md` R236, R242). -/

namespace Sys2Proof.Machine

variable {s : State}

/-- The state with another erase count. -/
def withEraseCount (c : BitVec 10) (s : State) : State := { s with host := { s.host with eraseCount := c } }

@[simp] theorem withEraseCount_eraseCount (c : BitVec 10) : (withEraseCount c s).host.eraseCount = c := rfl

theorem withEraseCount_self (s : State) : withEraseCount s.host.eraseCount s = s := rfl

/-- The count is no part of the armed predicate (R52). -/
@[simp] theorem withEraseCount_eraseArmed (c : BitVec 10) :
    (withEraseCount c s).host.eraseArmed = s.host.eraseArmed := rfl

/-- An armed LOOPITER below the threshold counts (R242). -/
theorem loopIteration_counts (h : s.host.eraseArmed = true) {k : Nat} (hk : k + 1 < 800) :
    loopIteration (withEraseCount (BitVec.ofNat 10 k) s) = withEraseCount (BitVec.ofNat 10 (k + 1)) s := by
  rcases loopIteration_cases (withEraseCount (BitVec.ofNat 10 k) s) with ⟨hna, -⟩ | ⟨-, -, heq⟩ | ⟨-, h8, -⟩
  · rw [withEraseCount_eraseArmed, h] at hna; cases hna
  · rw [heq, BitVec.ofNat_add]; rfl
  · rw [withEraseCount_eraseCount] at h8; bv_omega

/-- The 800th armed LOOPITER erases (R236, R242). -/
theorem loopIteration_erases (h : s.host.eraseArmed = true) :
    loopIteration (withEraseCount 799 s) = eraseBank s := by
  rcases loopIteration_cases (withEraseCount 799 s) with ⟨hna, -⟩ | ⟨-, hne, -⟩ | ⟨-, -, heq⟩
  · rw [withEraseCount_eraseArmed, h] at hna; cases hna
  · exact absurd rfl hne
  · exact heq

/-- After the erase the hold is blocked, and a LOOPITER changes nothing (R237). -/
theorem loopIteration_eraseBank : loopIteration (eraseBank s) = eraseBank s := by
  rcases loopIteration_cases (eraseBank s) with ⟨-, heq⟩ | ⟨harmed, -, -⟩ | ⟨harmed, -, -⟩
  · exact heq
  · cases ((eraseArmed_iff _).mp harmed).2.2
  · cases ((eraseArmed_iff _).mp harmed).2.2

/-- The erase clears the slots of the selected bank in both spaces (R236). -/
theorem eraseBank_reads_zero {a : Slot} (h : ∃ i < 32, a.toNat = s.cfg.bankOffsets[s.host.bank.toNat] + i) :
    (∀ n, (eraseBank s).mem.readTrig n a = 0) ∧ ∀ m, (eraseBank s).mem.readPitch m a = 0 := by
  have ha := (mem_bankSlots s a).mpr h
  exact ⟨fun n => by rw [eraseBank_mem, Memory.readTrig_clearSlots, if_pos ha],
    fun m => by rw [eraseBank_mem, Memory.readPitch_clearSlots, if_pos ha]⟩

/-- The erase keeps every other slot (R236). -/
theorem eraseBank_reads_old {a : Slot} (h : ¬∃ i < 32, a.toNat = s.cfg.bankOffsets[s.host.bank.toNat] + i) :
    (∀ n, (eraseBank s).mem.readTrig n a = s.mem.readTrig n a) ∧
      ∀ m, (eraseBank s).mem.readPitch m a = s.mem.readPitch m a := by
  have ha := mt (mem_bankSlots s a).mp h
  exact ⟨fun n => by rw [eraseBank_mem, Memory.readTrig_clearSlots, if_neg ha],
    fun m => by rw [eraseBank_mem, Memory.readPitch_clearSlots, if_neg ha]⟩

section Hold

variable {f : Nat → State} (hf : ∀ k, f (k + 1) = loopIteration (f k)) (harmed : (f 0).host.eraseArmed = true)
  (hzero : (f 0).host.eraseCount = 0)

include hf harmed hzero

/-- The first 799 LOOPITERs only count. -/
theorem hold_counts {k : Nat} (hk : k ≤ 799) : f k = withEraseCount (BitVec.ofNat 10 k) (f 0) := by
  induction k with
  | zero =>
    have hself := withEraseCount_self (f 0)
    rw [hzero] at hself
    exact hself.symm
  | succ k ih => rw [hf k, ih (by omega), loopIteration_counts harmed (by omega)]

/-- The 800th erases. -/
theorem hold_erases : f 800 = eraseBank (f 0) := by
  rw [hf 799, hold_counts hf harmed hzero le_rfl]
  exact loopIteration_erases harmed

/-- Every further one changes nothing. -/
theorem hold_stays_erased (k : Nat) : f (800 + k) = eraseBank (f 0) := by
  induction k with
  | zero => exact hold_erases hf harmed hzero
  | succ k ih => rw [← Nat.add_assoc, hf, ih, loopIteration_eraseBank]

end Hold

/-- Settles O46: 799 LOOPITERs count, the next one erases, and an erased hold stays as it is. -/
theorem holdErasesOnceAtEightHundred : Obligations.HoldErasesOnceAtEightHundred := by
  intro f hrec hhold hblk hzero hexec
  have hf : ∀ k, f (k + 1) = loopIteration (f k) := fun k => (Host.Outcome.next.inj (hexec k)).symm
  have harmed : (f 0).host.eraseArmed = true := (eraseArmed_iff _).mpr ⟨hrec, hhold, hblk⟩
  have h800 := hold_erases hf harmed hzero
  refine ⟨fun k hk => ?_, fun a => ?_, fun k => ?_⟩
  · rw [hold_counts hf harmed hzero hk, withEraseCount_eraseCount, BitVec.toNat_ofNat]
    exact ⟨rfl, Nat.mod_eq_of_lt (by omega)⟩
  · rw [h800]
    exact ⟨eraseBank_reads_zero, eraseBank_reads_old⟩
  · rw [hold_stays_erased hf harmed hzero k, h800]
    exact ⟨rfl, rfl⟩

end Sys2Proof.Machine
end

section
/-! TICK: its bookkeeping and the voices it does not trigger (`spec/40_tick.md` R123, `spec/43_voices.md` R183). -/

namespace Sys2Proof.Machine

variable {s : State}

/-- Settles O33: the last stage remembers and clears, and no stage writes a host register or a slot. -/
theorem tickBookkeepingAndOwnership : Obligations.TickBookkeepingAndOwnership := fun s =>
  ⟨tickState s, exec_tick s, by rw [tickState_prevStepIndex, tickState_stepIndex], tickState_prevPlay s,
    fun n => by simp, by rw [tickState_latch], tickState_host s, tickState_cfg s,
    fun n a => by rw [tickState_mem], fun m a => by rw [tickState_mem]⟩

/-- The stop reset comes on the first TICK after the transport stopped, under STOP_RESETS_VOICES (R133). -/
theorem stopReset_iff :
    s.stopReset = true ↔ s.host.play = false ∧ s.tick.prevPlay = true ∧ s.cfg.stopResetsVoices = true := by
  simp [State.stopReset, and_assoc]

/-- A voice whose tracks do not fire is not triggered (R163, R164). -/
theorem tickTime_voiceTrig_eq_false {v : VoiceNo} {a : Slot}
    (ha : a.toNat = (tickTime s).tick.stepIndex.toNat + s.cfg.bankOffsets[s.host.bank.toNat])
    (h : ∀ n : Track, v ∈ s.cfg.trackVoices[n] → s.latch.live[n] = false ∧
      ¬((tickTime s).tick.stepIndex ≠ s.tick.prevStepIndex ∧ s.host.play = true ∧ s.mem.readTrig n a = 1)) :
    (tickTime s).voiceTrig (tickTime s).stepEdge v = false := by
  rw [Bool.eq_false_iff, Ne, voiceTrig_iff, tickTime_cfg]
  rintro ⟨n, hv, hfire⟩
  obtain ⟨hlive, hseq⟩ := h n hv
  rcases (tickTime_fire_iff s ha).mp hfire with hl | hq
  · rw [hlive] at hl; cases hl
  · exact hseq hq

/-- The advance of a running voice, from its accumulator and index as numbers (R183). -/
theorem Voice.advance_eq {v : Voice} (hv : v.active = true) {inc : Half} {acc : Word} {idx : Half} (len : Nat)
    (hacc : acc.toNat = (v.acc.toNat + inc.toNat) % 2 ^ 32) (hidx : idx.toNat = acc.toNat / 64 % 2 ^ 16) :
    v.advance inc len =
      if len < idx.toNat then { acc := 0, idx := 0, active := false }
      else { acc := acc, idx := idx, active := true } := by
  have hacc' : v.acc + inc.setWidth 32 = acc := by
    apply BitVec.eq_of_toNat_eq
    rw [hacc, BitVec.toNat_add, BitVec.toNat_setWidth_of_le (by omega)]
  have hidx' : (acc >>> fracBits).setWidth 16 = idx := by
    apply BitVec.eq_of_toNat_eq
    rw [hidx, BitVec.toNat_setWidth, BitVec.toNat_ushiftRight, Nat.shiftRight_eq_div_pow, fracBits]
  simp only [Voice.advance, hacc', hidx', hv]
  rfl

/-- Settles O23: with no trigger and no stop reset, the voice step of a TICK is rest or advance. -/
theorem untriggeredVoicesAdvance : Obligations.UntriggeredVoicesAdvance := by
  refine fun s => ⟨tickState s, exec_tick s, fun v a ha htrig hstop => ?_⟩
  rw [tickState_stepIndex] at ha htrig
  have hvoice := tickState_voices s v
  rw [tickTime_voiceTrig_eq_false ha htrig, Bool.eq_false_iff.mpr (mt stopReset_iff.mp hstop)] at hvoice
  rw [hvoice]
  refine ⟨fun hv => Voice.next_inactive hv _ _, fun hv acc idx hacc hidx => ?_⟩
  rw [Voice.next_active hv]
  exact Voice.advance_eq hv _ hacc hidx

end Sys2Proof.Machine
end

section
/-! The register view as numbers (`spec/10_state.md` R55, R56): a register is the sum of its fields at their bits, so a
field is read off by division. -/

namespace Sys2Proof

/-- A field of a word is what the word holds at its bits. -/
theorem extract_eq_of_toNat {w n : Nat} {x : BitVec w} {y : BitVec n} (lo : Nat)
    (h : x.toNat / 2 ^ lo % 2 ^ n = y.toNat) : x.extractLsb' lo n = y := by
  apply BitVec.eq_of_toNat_eq
  rw [BitVec.extractLsb'_toNat, Nat.shiftRight_eq_div_pow, h]

/-- So is a bit of a word. -/
theorem getLsbD_eq_of_toNat {w : Nat} {x : BitVec w} {b : Bool} (lo : Nat)
    (h : x.toNat / 2 ^ lo % 2 = b.toNat) : x.getLsbD lo = b := by
  rw [BitVec.getLsbD, Nat.testBit_eq_decide_div_mod_eq, h]
  cases b <;> rfl

/-- A bit of a field of a word is a bit of the word. -/
theorem getLsbD_of_extract {w n : Nat} {x : BitVec w} {y : BitVec n} {lo : Nat} (h : x.extractLsb' lo n = y)
    {i : Nat} (hi : i < n) : x.getLsbD (lo + i) = y.getLsbD i := by
  rw [← h, BitVec.getLsbD_extractLsb', decide_eq_true hi, Bool.true_and]

end Sys2Proof

namespace Sys2Proof.Machine

variable (s : State)

/-- The live latches as a number: bit t is track t (R56). -/
theorem liveBits_toNat (l : Latches) : l.liveBits.toNat =
    l.live[0].toNat + 2 * l.live[1].toNat + 4 * l.live[2].toNat + 8 * l.live[3].toNat := by
  simp only [Latches.liveBits, append_toNat, BitVec.toNat_ofBool]
  omega

theorem activeBits_toNat (r : TickRegs) : r.activeBits.toNat =
    r.voices[0].active.toNat + 2 * r.voices[1].active.toNat + 4 * r.voices[2].active.toNat +
      8 * r.voices[3].active.toNat + 16 * r.voices[4].active.toNat + 32 * r.voices[5].active.toNat := by
  simp only [TickRegs.activeBits, append_toNat, BitVec.toNat_ofBool]
  omega

theorem modeBits_toNat (h : HostRegs) : h.modeBits.toNat =
    h.reverse.toNat + 2 * h.mixBlend.toNat + 4 * h.clickEn.toNat + 8 * h.extTempo.toNat + 16 * h.tapGate.toNat +
      32 * h.eraseHold.toNat := by
  simp only [HostRegs.modeBits, append_toNat, BitVec.toNat_ofBool]
  omega

theorem statusWord_toNat : s.statusWord.toNat =
    s.host.play.toNat + 2 * s.host.record.toNat + 2 ^ 2 * s.host.eraseArmed.toNat +
      2 ^ 3 * s.host.eraseBlocked.toNat + 2 ^ 4 * s.host.cmdErr.toNat + 2 ^ 5 * s.tick.stepIndex.toNat +
      2 ^ 10 * s.tick.prevStepIndex.toNat + 2 ^ 15 * s.host.bank.toNat + 2 ^ 17 * s.tick.activeBits.toNat +
      2 ^ 23 * s.host.tapCount.toNat + 2 ^ 25 * s.host.tapSlot.toNat + 2 ^ 26 * s.tick.prevPlay.toNat +
      2 ^ 27 * s.latch.liveBits.toNat + 2 ^ 31 * s.latch.step.toNat := by
  simp only [State.statusWord, append_toNat, BitVec.toNat_ofBool]
  omega

theorem liveBits_getLsbD (l : Latches) (n : Track) : l.liveBits.getLsbD n.val = l.live[n] := by
  apply getLsbD_eq_of_toNat
  have h0 := l.live[0].toNat_le
  have h1 := l.live[1].toNat_le
  have h2 := l.live[2].toNat_le
  have h3 := l.live[3].toNat_le
  rw [liveBits_toNat]
  fin_cases n <;> simp <;> omega

theorem activeBits_getLsbD (r : TickRegs) (v : VoiceNo) : r.activeBits.getLsbD v.val = r.voices[v].active := by
  apply getLsbD_eq_of_toNat
  have h0 := r.voices[0].active.toNat_le
  have h1 := r.voices[1].active.toNat_le
  have h2 := r.voices[2].active.toNat_le
  have h3 := r.voices[3].active.toNat_le
  have h4 := r.voices[4].active.toNat_le
  have h5 := r.voices[5].active.toNat_le
  rw [activeBits_toNat]
  fin_cases v <;> simp <;> omega

/-- Settles O48: STATUS is the sum of its fields, each below the weight of the next one. -/
theorem statusFields : Obligations.StatusFields := by
  intro s
  have hw : (s.regView .status).toNat = _ := statusWord_toNat s
  have hplay := s.host.play.toNat_le
  have hrecord := s.host.record.toNat_le
  have harmed := s.host.eraseArmed.toNat_le
  have hblocked := s.host.eraseBlocked.toNat_le
  have herr := s.host.cmdErr.toNat_le
  have hstep := s.tick.stepIndex.isLt
  have hprev := s.tick.prevStepIndex.isLt
  have hbank := s.host.bank.isLt
  have hactive := s.tick.activeBits.isLt
  have hcount := s.host.tapCount.isLt
  have hslot := s.host.tapSlot.isLt
  have hprevPlay := s.tick.prevPlay.toNat_le
  have hlive := s.latch.liveBits.isLt
  have hlatch := s.latch.step.toNat_le
  have hactiveField : (s.regView .status).extractLsb' 17 6 = s.tick.activeBits := extract_eq_of_toNat 17 (by omega)
  have hliveField : (s.regView .status).extractLsb' 27 4 = s.latch.liveBits := extract_eq_of_toNat 27 (by omega)
  refine ⟨?play, ?record, ?armed, ?blocked, ?err, ?step, ?prevStep, ?bank, fun v => ?active, ?count, ?slot, ?prevPlay,
    fun n => ?live, ?latch⟩
  case active => exact (getLsbD_of_extract hactiveField v.isLt).trans (activeBits_getLsbD s.tick v)
  case live => exact (getLsbD_of_extract hliveField n.isLt).trans (liveBits_getLsbD s.latch n)
  case armed => exact getLsbD_eq_of_toNat (b := s.host.eraseArmed) 2 (by omega)
  case step | prevStep | bank | count | slot => apply extract_eq_of_toNat; omega
  case play | record | blocked | err | prevPlay | latch => apply getLsbD_eq_of_toNat; omega

/-! ## The other registers -/

/-- Zero extension keeps the number. -/
theorem zero_append_toNat {n m : Nat} (x : BitVec m) : (0#n ++ x).toNat = x.toNat := by
  rw [append_toNat, BitVec.toNat_ofNat, Nat.zero_mod, Nat.zero_mul, Nat.zero_add]

theorem mode_toNat : (s.regView .mode).toNat = s.host.modeBits.toNat := zero_append_toNat _

theorem click_toNat : (s.regView .click).toNat =
    s.tick.clickAmp.toNat + 2 ^ 8 * s.tick.clickDiv.toNat + 2 ^ 16 * s.tick.clickInc.toNat := by
  simp only [State.regView, append_toNat, BitVec.toNat_ofNat]
  omega

theorem vidx_toNat (v : VoiceNo) : (s.regView (.vidx v)).toNat =
    s.tick.voices[v].idx.toNat + 2 ^ 16 * (s.inc v).toNat := by
  simp only [State.regView, append_toNat]
  omega

/-- The register numbers of the voices (R55). -/
theorem decodeReg_vacc (v : VoiceNo) : decodeReg (BitVec.ofNat 5 (16 + 2 * v.val)) = .vacc v := by
  revert v; decide

theorem decodeReg_vidx (v : VoiceNo) : decodeReg (BitVec.ofNat 5 (17 + 2 * v.val)) = .vidx v := by
  revert v; decide

/-- The flags of MODE at their bits, and nothing above them (R55). -/
theorem mode_fields : (s.regView .mode).getLsbD 0 = s.host.reverse ∧ (s.regView .mode).getLsbD 1 = s.host.mixBlend ∧
    (s.regView .mode).getLsbD 2 = s.host.clickEn ∧ (s.regView .mode).getLsbD 3 = s.host.extTempo ∧
    (s.regView .mode).getLsbD 4 = s.host.tapGate ∧ (s.regView .mode).getLsbD 5 = s.host.eraseHold ∧
    (s.regView .mode).toNat < 2 ^ 6 := by
  have hw := (mode_toNat s).trans (modeBits_toNat s.host)
  have hreverse := s.host.reverse.toNat_le
  have hblend := s.host.mixBlend.toNat_le
  have hclick := s.host.clickEn.toNat_le
  have hext := s.host.extTempo.toNat_le
  have hgate := s.host.tapGate.toNat_le
  have hhold := s.host.eraseHold.toNat_le
  refine ⟨?_, ?_, ?_, ?_, ?_, ?_, by omega⟩ <;>
  · apply getLsbD_eq_of_toNat; omega

/-- Settles O49: the packed registers from their sums, the others by their numbers. -/
theorem registerLayouts : Obligations.RegisterLayouts := by
  refine fun s => ⟨mode_fields s, ⟨rfl, rfl, rfl, rfl, rfl, rfl⟩,
    ⟨zero_append_toNat _, zero_append_toNat _, zero_append_toNat _⟩,
    ⟨click_toNat s, zero_append_toNat _, zero_append_toNat _, rfl, rfl⟩, fun v => ?_⟩
  rw [decodeReg_vacc, decodeReg_vidx]
  exact ⟨rfl, vidx_toNat s v⟩

/-! ## After reset -/

/-- A 16-bit field in the upper half of a register (R55). -/
theorem upperHalf_toNat (x : Half) : (x.setWidth 32 <<< 16 : Word).toNat = 2 ^ 16 * x.toNat := by
  have := x.isLt
  rw [BitVec.toNat_shiftLeft, BitVec.toNat_setWidth, Nat.shiftLeft_eq]
  omega

theorem resetWith_regView_status (cfg : Config) : (State.resetWith cfg).regView .status = 0x00007FE0 := by
  apply BitVec.eq_of_toNat_eq
  rw [State.regView, statusWord_toNat, activeBits_toNat, liveBits_toNat]
  simp [State.resetWith, Voice.idle, HostRegs.eraseArmed]

theorem resetWith_regView_click (cfg : Config) :
    (State.resetWith cfg).regView .click = cfg.clickIncLow.setWidth 32 <<< 16 := by
  apply BitVec.eq_of_toNat_eq
  rw [click_toNat, upperHalf_toNat]
  simp [State.resetWith]

theorem resetWith_regView_sample (cfg : Config) : (State.resetWith cfg).regView .sample = 127 := by
  simp [State.regView, State.resetWith]

/-- Every voice index reads the increment above an index of 0 (R45, R300). -/
theorem resetWith_regView_vidx (cfg : Config) (v : VoiceNo) :
    (State.resetWith cfg).regView (.vidx v) = ((State.resetWith cfg).inc v).setWidth 32 <<< 16 := by
  apply BitVec.eq_of_toNat_eq
  rw [vidx_toNat, upperHalf_toNat]
  simp [State.resetWith, Voice.idle]

/-- The increments of the pitched voices are 0 (R46, R300). -/
theorem resetWith_inc_pitched (cfg : Config) {v : VoiceNo} (h : 4 ≤ v.val) : (State.resetWith cfg).inc v = 0 := by
  simp [State.inc, State.resetWith, Nat.not_lt.mpr h]

/-- The registers that read 0 after reset (R264, R301). -/
theorem resetWith_regView_zero (cfg : Config) {r : RegSel} (hr : r ∉ [RegSel.status, .stepLength, .click, .sample])
    (hv : ∀ v : VoiceNo, v.val < 4 → r ≠ .vidx v) : (State.resetWith cfg).regView r = 0 := by
  cases r with
  | status | stepLength | click | sample => simp at hr
  | vidx v =>
    have h4 : 4 ≤ v.val := Nat.le_of_not_lt fun h => hv v h rfl
    rw [resetWith_regView_vidx, resetWith_inc_pitched cfg h4]
    rfl
  | _ => simp [State.regView, State.resetWith, HostRegs.modeBits, Voice.idle]

/-- The numbers of the registers that read something else (R55). -/
theorem decodeReg_not_mem {r : BitVec 5} (h : r.toNat ∉ [0, 3, 11, 13, 17, 19, 21, 23]) :
    decodeReg r ∉ [RegSel.status, .stepLength, .click, .sample] ∧
      ∀ v : VoiceNo, v.val < 4 → decodeReg r ≠ .vidx v := by
  revert r; decide

/-- Settles O11: five registers and four increments have a value of their own, and every other field is 0. -/
theorem resetRegisterView : Obligations.ResetRegisterView := by
  refine ⟨fun cfg => ⟨resetWith_regView_status cfg, resetWith_regView_zero cfg (by decide) (by decide), rfl,
    resetWith_regView_click cfg, resetWith_regView_sample cfg, fun v => ?_, fun r _ hr => ?_⟩, rfl⟩
  · rw [resetWith_regView_vidx, inc_percussive]
    rfl
  · obtain ⟨hmem, hvidx⟩ := decodeReg_not_mem hr
    exact resetWith_regView_zero cfg hmem hvidx

end Sys2Proof.Machine
end

section
/-! Command words as bytes (`spec/20_memory.md` R85). -/

namespace Sys2Proof

/-- The four bytes of a word, most significant first, are the word (R85). -/
theorem bytes_append (w : Word) :
    w.extractLsb' 24 8 ++ w.extractLsb' 16 8 ++ w.extractLsb' 8 8 ++ w.extractLsb' 0 8 = w := by
  rw [BitVec.extractLsb'_append_extractLsb'_eq_extractLsb' (show 24 = 16 + 8 from rfl),
    BitVec.extractLsb'_append_extractLsb'_eq_extractLsb' (show 16 = 8 + 8 from rfl),
    BitVec.extractLsb'_append_extractLsb'_eq_extractLsb' (show 8 = 0 + 8 from rfl)]
  exact extract_all w

theorem decodeBytes_wordBytes_append (w : Word) (rest : List Byte) :
    decodeBytes (wordBytes w ++ rest) = .ok (decode w, rest) := by
  have hread : decodeBytes (wordBytes w ++ rest) = .ok (decode
      (w.extractLsb' 24 8 ++ w.extractLsb' 16 8 ++ w.extractLsb' 8 8 ++ w.extractLsb' 0 8), rest) := rfl
  rw [hread, bytes_append]

theorem decodeBytes_truncated {bs : List Byte} (h : bs.length < 4) : decodeBytes bs = .error .truncated := by
  match bs, h with
  | [], _ | [_], _ | [_, _], _ | [_, _, _], _ => rfl
  | _ :: _ :: _ :: _ :: _, h => simp only [List.length_cons] at h; omega

/-- Settles O6: the decoder puts the bytes of a word together again, and asks for four of them. -/
theorem wordsMoveLittleEndian : Obligations.WordsMoveLittleEndian :=
  ⟨decodeBytes_wordBytes_append, fun _ => decodeBytes_truncated⟩

end Sys2Proof
end

section
/-! The windows of the banks in the slot storage (`spec/20_memory.md` R82, R83). -/

namespace Sys2Proof.Machine

variable {s : State}

/-! ## The default offsets -/

/-- BANK_OFFSETS at its default, by bank (R8, R82). -/
def defaultOffset (b : BitVec 2) : Nat := [0, 31, 63, 95][b.toNat]!

theorem default_bankOffsets_get (b : BitVec 2) :
    (#v[0, 31, 63, 95] : Vector Nat 4)[b.toNat] = defaultOffset b := by
  revert b; decide

/-- The slot of a step in a bank under the default offsets (R82). -/
theorem slotOf_bank_toNat (h : s.cfg.bankOffsets = #v[0, 31, 63, 95]) (b : BitVec 2) (i : StepNo) :
    ({ s with host := { s.host with bank := b } }.slotOf i).toNat = i.toNat + defaultOffset b := by
  simp only [slotOf_toNat, h, default_bankOffsets_get]

theorem defaultOffset_le (b : BitVec 2) : defaultOffset b ≤ 95 := by revert b; decide

/-- A later bank starts at the earlier one's step 31 or above it, and at it only bank 1 after bank 0 (R82). -/
theorem defaultOffset_gap {b c : BitVec 2} (h : b < c) :
    defaultOffset b + 31 ≤ defaultOffset c ∧ (defaultOffset b + 31 = defaultOffset c ↔ b = 0 ∧ c = 1) := by
  revert b c; decide

/-- Settles O56: a slot is its step above the bank's offset, and two banks can meet only where the gap between their
offsets is 31. -/
theorem bankWindows : Obligations.BankWindows := by
  intro s hs b c i j
  have hb := slotOf_bank_toNat hs b i
  have hc := slotOf_bank_toNat hs c j
  have hi := i.isLt
  refine ⟨?le, hb, fun hlt => ?shared⟩
  case le =>
    have hoff := defaultOffset_le b
    omega
  case shared =>
    obtain ⟨hgap, hmeet⟩ := defaultOffset_gap hlt
    rw [← BitVec.toNat_inj, hb, hc, ← and_assoc, ← hmeet]
    bv_omega

/-! ## What no operation writes -/

/-- Every slot the recorder can address lies in the selected bank (R82, R83). -/
theorem slotOf_mem_bankSlots (i : StepNo) : s.slotOf i ∈ s.bankSlots :=
  (mem_bankSlots s _).mpr ⟨i.toNat, i.isLt, by rw [slotOf_toNat, Nat.add_comm]⟩

/-- The memory `m'` reads as `m` in slot `a` of every track and space. -/
def Memory.SameAt (a : Slot) (m m' : Memory) : Prop :=
  (∀ n, m'.readTrig n a = m.readTrig n a) ∧ ∀ i, m'.readPitch i a = m.readPitch i a

theorem Memory.SameAt.refl (a : Slot) (m : Memory) : Memory.SameAt a m m := ⟨fun _ => rfl, fun _ => rfl⟩

/-- TRIG writes no slot outside the selected bank (R232). -/
theorem liveTrigger_sameAt {a : Slot} (h : a ∉ s.bankSlots) (n : Track) :
    Memory.SameAt a s.mem (liveTrigger n s).mem := by
  have hne : a ≠ s.slotOf s.writeIndex := fun he => h (he ▸ slotOf_mem_bankSlots _)
  rw [liveTrigger_mem]
  split
  · split <;> simp [Memory.SameAt, hne]
  · exact .refl a s.mem

/-- LOOPITER erases no slot outside the selected bank (R236). -/
theorem loopIteration_sameAt {a : Slot} (h : a ∉ s.bankSlots) : Memory.SameAt a s.mem (loopIteration s).mem := by
  rcases loopIteration_cases s with ⟨-, heq⟩ | ⟨-, -, heq⟩ | ⟨-, -, heq⟩ <;> rw [heq]
  · exact .refl a s.mem
  · exact .refl a s.mem
  · exact eraseBank_reads_old (s := countHold s) (mt (mem_bankSlots s a).mpr h)

/-- TRIG and LOOPITER are the only writers of the storage (R80), and stay inside the selected bank. -/
theorem after_sameAt {a : Slot} (h : a ∉ s.bankSlots) (i : Instr) : Memory.SameAt a s.mem (after i s).mem := by
  cases i with
  | trig n => exact liveTrigger_sameAt h n
  | loopiter => exact loopIteration_sameAt h
  | _ => simpa [after] using Memory.SameAt.refl a s.mem

/-! ## Slot 127 -/

/-- A bank whose offset is at most 95 ends below slot 127 (R82). -/
theorem lastSlot_not_mem_bankSlots (h : ∀ b : Fin 4, s.cfg.bankOffsets[b] ≤ 95) : 127 ∉ s.bankSlots := by
  have hoff : s.cfg.bankOffsets[s.host.bank.toNat] ≤ 95 := h s.host.bank.toFin
  rw [mem_bankSlots]
  rintro ⟨i, hi, heq⟩
  have hlast : (127 : Slot).toNat = 127 := rfl
  omega

theorem after_lastSlotsClear (hoff : ∀ b : Fin 4, s.cfg.bankOffsets[b] ≤ 95) (h : LastSlotsClear s) (i : Instr) :
    LastSlotsClear (after i s) := by
  obtain ⟨htrig, hpitch⟩ := h
  obtain ⟨hsameTrig, hsamePitch⟩ := after_sameAt (lastSlot_not_mem_bankSlots hoff) i
  exact ⟨fun n => (hsameTrig n).trans (htrig n), fun m => (hsamePitch m).trans (hpitch m)⟩

/-- Settles O57: slot 127 lies in no bank, and no operation writes outside the selected bank. -/
theorem lastSlotIsNeverWritten : Obligations.LastSlotIsNeverWritten := by
  intro s hoff h
  cases hp : s.pending with
  | nil => exact ⟨s, step_nil s hp, h⟩
  | cons w rest =>
    exact ⟨_, (step_cons s hp).trans (exec_eq_after _ _),
      after_lastSlotsClear (s := { s with pending := rest }) hoff h (decode w)⟩

end Sys2Proof.Machine
end

section
/-! The decoder and the encoder, row by row of the opcode map (`spec/30_encoding.md` R100 to R107, R111). -/

namespace Sys2Proof

variable {w : Word}

/-! ## The row an opcode field selects (R104) -/

theorem decode_nop (h : opField w = 0) : decode w = .nop := by simp [decode, h]

theorem decode_tick (h : opField w = 1) : decode w = .tick := by simp [decode, h]

theorem decode_trig (h : opField w = 2) : decode w = .trig (w.extractLsb' 0 2).toFin := by simp [decode, h]

theorem decode_setpitch (h : opField w = 3) :
    decode w = .setpitch (w.extractLsb' 16 1).toFin (w.extractLsb' 0 16) := by simp [decode, h]

theorem decode_setnoise (h : opField w = 4) : decode w = .setnoise (w.extractLsb' 0 16) := by simp [decode, h]

theorem decode_setflag (h : opField w = 5) :
    decode w = .setflag (decodeFlag (w.extractLsb' 8 4)) (w.getLsbD 0) := by simp [decode, h]

theorem decode_play (h : opField w = 6) : decode w = .play (w.getLsbD 0) := by simp [decode, h]

theorem decode_rectoggle (h : opField w = 7) : decode w = .rectoggle := by simp [decode, h]

theorem decode_tap (h : opField w = 8) : decode w = .tap := by simp [decode, h]

theorem decode_bank (h : opField w = 9) : decode w = .bank (w.extractLsb' 0 2) := by simp [decode, h]

theorem decode_step (h : opField w = 10) : decode w = .step := by simp [decode, h]

theorem decode_loopiter (h : opField w = 11) : decode w = .loopiter := by simp [decode, h]

theorem decode_settempo (h : opField w = 12) : decode w = .settempo (w.extractLsb' 0 28) := by simp [decode, h]

theorem decode_rdreg (h : opField w = 13) : decode w = .rdreg (decodeReg (w.extractLsb' 0 5)) := by simp [decode, h]

theorem decode_rdseq (h : opField w = 14) :
    decode w = .rdseq (decodeSeq (w.extractLsb' 12 1) (w.extractLsb' 8 2) (w.extractLsb' 0 7)) := by simp [decode, h]

theorem decode_reservedF (h : opField w = 15) : decode w = .reservedF := by simp [decode, h]

/-- A flag read from bit 0 is the one-bit field there. -/
theorem ofBool_bit0 (w : Word) : BitVec.ofBool (w.getLsbD 0) = w.extractLsb' 0 1 := by
  apply BitVec.eq_of_getLsbD_eq
  simp

/-! ## Decoding an encoding -/

/-- Every operation's row is read back from its encoding (R100, R104). -/
theorem opField_encode (i : Instr) : opField (encode i) = i.opcode := by
  cases i with
  | nop => exact Laws.OpField.nop
  | tick => exact Laws.OpField.tick
  | trig n => exact Laws.OpField.trig n
  | setpitch m val => exact Laws.OpField.setpitch m val
  | setnoise val => exact Laws.OpField.setnoise val
  | setflag id b => exact Laws.OpField.setflag id b
  | play b => exact Laws.OpField.play b
  | rectoggle => exact Laws.OpField.rectoggle
  | tap => exact Laws.OpField.tap
  | bank n => exact Laws.OpField.bank n
  | step => exact Laws.OpField.step
  | loopiter => exact Laws.OpField.loopiter
  | settempo val => exact Laws.OpField.settempo val
  | rdreg r => exact Laws.OpField.rdreg r
  | rdseq q => exact Laws.OpField.rdseq q
  | reservedF => exact Laws.OpField.reservedF

/-- Every operand is read back from its field (R101), and a selector when it is well-formed (R105, R106). -/
theorem decode_encode {i : Instr} (h : i.wf = true) : decode (encode i) = i := by
  have hop := opField_encode i
  cases i with
  | nop => exact decode_nop hop
  | tick => exact decode_tick hop
  | trig n =>
    rw [decode_trig hop]
    simp (disch := omega) only [encode, extract_append_low, extract_all]
  | setpitch m val =>
    rw [decode_setpitch hop]
    simp (disch := omega) only [encode, extract_append_low, extract_append_high, Nat.reduceSub, extract_all]
  | setnoise val =>
    rw [decode_setnoise hop]
    simp (disch := omega) only [encode, extract_append_low, extract_all]
  | setflag id b =>
    rw [decode_setflag hop]
    simp (disch := omega) only [encode, extract_append_low, extract_append_high, bit0_append, Nat.reduceSub,
      extract_all, decodeFlag_encodeFlag (f := id) h, BitVec.getLsbD_ofBool, decide_true, Bool.true_and]
  | play b =>
    rw [decode_play hop]
    simp (disch := omega) only [encode, bit0_append, BitVec.getLsbD_ofBool, decide_true, Bool.true_and]
  | rectoggle => exact decode_rectoggle hop
  | tap => exact decode_tap hop
  | bank n =>
    rw [decode_bank hop]
    simp (disch := omega) only [encode, extract_append_low, extract_all]
  | step => exact decode_step hop
  | loopiter => exact decode_loopiter hop
  | settempo val =>
    rw [decode_settempo hop]
    simp (disch := omega) only [encode, extract_append_low, extract_all]
  | rdreg r =>
    rw [decode_rdreg hop]
    simp (disch := omega) only [encode, extract_append_low, extract_all, decodeReg_encodeReg (r := r) h]
  | rdseq q =>
    rw [decode_rdseq hop]
    simp (disch := omega) only [encode, extract_append_low, extract_append_high, Nat.reduceSub, extract_all,
      decodeSeq_encodeSeq (q := q) h]
  | reservedF => exact decode_reservedF hop

/-- Settles O2: the row is read back from the opcode field, and each operand of the row from its own field. -/
theorem decodeAfterEncode : Obligations.DecodeAfterEncode := fun _ => decode_encode

/-! ## The operation a word decodes to -/

theorem opcode_decode (w : Word) : (decode w).opcode = opField w := by
  rcases opcode_cases (opField w) with h | h | h | h | h | h | h | h | h | h | h | h | h | h | h | h <;>
    simp [decode, h, Instr.opcode]

/-- A word's selector fields decode to well-formed selectors (R107). -/
theorem decode_wf (w : Word) : (decode w).wf = true := by
  unfold decode
  split
  any_goals rfl
  · exact decodeFlag_wf _
  · exact decodeReg_wf _
  · exact decodeSeq_wf _ _ _

/-- Only the opcode 0xF and the three rows with a selector have reserved encodings (R110). -/
theorem opcode_of_isReserved {i : Instr} (h : i.isReserved = true) :
    i.opcode = 0xF ∨ i.opcode = 0x5 ∨ i.opcode = 0xD ∨ i.opcode = 0xE := by
  cases i with
  | reservedF => exact .inl rfl
  | setflag id b => exact .inr (.inl rfl)
  | rdreg r => exact .inr (.inr (.inl rfl))
  | rdseq q => exact .inr (.inr (.inr rfl))
  | _ => exact absurd h Bool.false_ne_true

/-- The reserved encodings as fields of the word (R105, R106, R110). -/
theorem decode_isReserved_iff (w : Word) : (decode w).isReserved = true ↔
    opField w = 0xF ∨
    (opField w = 0x5 ∧ 6 ≤ (w.extractLsb' 8 4).toNat) ∨
    (opField w = 0xD ∧ 28 ≤ (w.extractLsb' 0 5).toNat) ∨
    (opField w = 0xE ∧ w.extractLsb' 12 1 = 1 ∧ (w.extractLsb' 8 2).toNat < 2) := by
  constructor
  · intro hres
    have hop := opcode_of_isReserved hres
    rw [opcode_decode] at hop
    rcases hop with h | h | h | h
    · exact .inl h
    · rw [decode_setflag h, setflag_isReserved] at hres
      exact .inr (.inl ⟨h, of_decide_eq_true hres⟩)
    · rw [decode_rdreg h, rdreg_isReserved] at hres
      exact .inr (.inr (.inl ⟨h, of_decide_eq_true hres⟩))
    · rw [decode_rdseq h, rdseq_isReserved] at hres
      exact .inr (.inr (.inr ⟨h, of_decide_eq_true hres⟩))
  · rintro (h | ⟨h, hid⟩ | ⟨h, hr⟩ | ⟨h, hq⟩)
    · rw [decode_reservedF h]; rfl
    · rw [decode_setflag h, setflag_isReserved]; exact decide_eq_true hid
    · rw [decode_rdreg h, rdreg_isReserved]; exact decide_eq_true hr
    · rw [decode_rdseq h, rdseq_isReserved]; exact decide_eq_true hq

/-- Settles O5, from the row, the well-formedness and the reserved fields of a decoded word. -/
theorem everyWordIsOneRow : Obligations.EveryWordIsOneRow := fun w =>
  ⟨opcode_decode w, decode_wf w, decode_isReserved_iff w⟩

/-! ## Clearing the bits a row does not name (R103) -/

/-- Clearing bits of a field that is read as two. -/
theorem extract_and_append {N n m : Nat} (w : BitVec N) (lo : Nat) (x : BitVec n) (y : BitVec m) :
    w.extractLsb' lo (n + m) &&& (x ++ y) = (w.extractLsb' (lo + m) n &&& x) ++ (w.extractLsb' lo m &&& y) := by
  rw [← BitVec.extractLsb'_append_extractLsb'_eq_extractLsb' rfl, BitVec.and_append]

/-- The layout of a row without operands: the opcode field and nothing else. -/
theorem opcode_layout (w : Word) : opField w ++ 0#28 = w &&& 0xF0000000 :=
  calc opField w ++ 0#28 = w.extractLsb' 0 (4 + 28) &&& (BitVec.allOnes 4 ++ 0#28) := by
        simp only [extract_and_append, BitVec.and_allOnes, BitVec.and_zero]; rfl
    _ = w &&& 0xF0000000 := by rw [extract_all]; rfl

/-- The layout of a row with one operand in the low bits: the opcode field, `z` reserved bits, the operand's `f`. -/
theorem low_operand_layout {z f : Nat} (w : BitVec (4 + z + f)) :
    w.extractLsb' (f + z) 4 ++ 0#z ++ w.extractLsb' 0 f = w &&& (BitVec.allOnes 4 ++ 0#z ++ BitVec.allOnes f) :=
  calc w.extractLsb' (f + z) 4 ++ 0#z ++ w.extractLsb' 0 f
      = w.extractLsb' 0 (4 + z + f) &&& (BitVec.allOnes 4 ++ 0#z ++ BitVec.allOnes f) := by
        simp only [extract_and_append, BitVec.and_allOnes, BitVec.and_zero, Nat.zero_add]
    _ = w &&& (BitVec.allOnes 4 ++ 0#z ++ BitVec.allOnes f) := by rw [extract_all]

/-! ## Encoding a decoding, row by row -/

theorem encode_decode_of_no_operand {i : Instr} (hdec : decode w = i) (henc : encode i = i.opcode ++ 0#28)
    (hmask : fieldMask w = 0xF0000000) : encode (decode w) = w &&& fieldMask w := by
  rw [hmask, ← opcode_layout, ← opcode_decode, hdec, henc]

theorem encode_decode_trig (h : opField w = 2) : encode (decode w) = w &&& fieldMask w :=
  calc encode (decode w) = opField w ++ 0#26 ++ w.extractLsb' 0 2 := by rw [decode_trig h, h]; rfl
    _ = w &&& 0xF0000003 := low_operand_layout (z := 26) (f := 2) w
    _ = w &&& fieldMask w := by simp [fieldMask, h]

theorem encode_decode_setpitch (h : opField w = 3) : encode (decode w) = w &&& fieldMask w :=
  calc encode (decode w) = opField w ++ 0#11 ++ w.extractLsb' 16 1 ++ w.extractLsb' 0 16 := by
        rw [decode_setpitch h, h]; rfl
    _ = w.extractLsb' 0 (4 + 11 + 1 + 16) &&&
        (BitVec.allOnes 4 ++ 0#11 ++ BitVec.allOnes 1 ++ BitVec.allOnes 16) := by
        simp only [extract_and_append, BitVec.and_allOnes, BitVec.and_zero]; rfl
    _ = w &&& fieldMask w := by simp [fieldMask, h]

theorem encode_decode_setnoise (h : opField w = 4) : encode (decode w) = w &&& fieldMask w :=
  calc encode (decode w) = opField w ++ 0#12 ++ w.extractLsb' 0 16 := by rw [decode_setnoise h, h]; rfl
    _ = w &&& 0xF000FFFF := low_operand_layout (z := 12) (f := 16) w
    _ = w &&& fieldMask w := by simp [fieldMask, h]

theorem encode_decode_setflag (h : opField w = 5) : encode (decode w) = w &&& fieldMask w :=
  calc encode (decode w) = opField w ++ 0#16 ++ w.extractLsb' 8 4 ++ 0#7 ++ w.extractLsb' 0 1 := by
        rw [decode_setflag h, h, encode, encodeFlag_decodeFlag, ofBool_bit0]; rfl
    _ = w.extractLsb' 0 (4 + 16 + 4 + 7 + 1) &&&
        (BitVec.allOnes 4 ++ 0#16 ++ BitVec.allOnes 4 ++ 0#7 ++ BitVec.allOnes 1) := by
        simp only [extract_and_append, BitVec.and_allOnes, BitVec.and_zero]; rfl
    _ = w &&& fieldMask w := by simp [fieldMask, h]

theorem encode_decode_play (h : opField w = 6) : encode (decode w) = w &&& fieldMask w :=
  calc encode (decode w) = opField w ++ 0#27 ++ w.extractLsb' 0 1 := by
        rw [decode_play h, h, encode, ofBool_bit0]; rfl
    _ = w &&& 0xF0000001 := low_operand_layout (z := 27) (f := 1) w
    _ = w &&& fieldMask w := by simp [fieldMask, h]

theorem encode_decode_bank (h : opField w = 9) : encode (decode w) = w &&& fieldMask w :=
  calc encode (decode w) = opField w ++ 0#26 ++ w.extractLsb' 0 2 := by rw [decode_bank h, h]; rfl
    _ = w &&& 0xF0000003 := low_operand_layout (z := 26) (f := 2) w
    _ = w &&& fieldMask w := by simp [fieldMask, h]

theorem encode_decode_settempo (h : opField w = 12) : encode (decode w) = w &&& fieldMask w :=
  calc encode (decode w) = opField w ++ w.extractLsb' 0 28 := by rw [decode_settempo h, h]; rfl
    _ = w.extractLsb' 0 (4 + 28) &&& (BitVec.allOnes 4 ++ BitVec.allOnes 28) := by
        simp only [extract_and_append, BitVec.and_allOnes]; rfl
    _ = w &&& fieldMask w := by simp [fieldMask, h]

theorem encode_decode_rdreg (h : opField w = 13) : encode (decode w) = w &&& fieldMask w :=
  calc encode (decode w) = opField w ++ 0#23 ++ w.extractLsb' 0 5 := by
        rw [decode_rdreg h, h, encode, encodeReg_decodeReg]; rfl
    _ = w &&& 0xF000001F := low_operand_layout (z := 23) (f := 5) w
    _ = w &&& fieldMask w := by simp [fieldMask, h]

theorem encode_decode_rdseq (h : opField w = 14) : encode (decode w) = w &&& fieldMask w :=
  calc encode (decode w)
      = opField w ++ 0#15 ++ w.extractLsb' 12 1 ++ 0#2 ++ w.extractLsb' 8 2 ++ 0#1 ++ w.extractLsb' 0 7 := by
        rw [decode_rdseq h, h, encode, encodeSeq_decodeSeq]; rfl
    _ = w.extractLsb' 0 (4 + 15 + 1 + 2 + 2 + 1 + 7) &&&
        (BitVec.allOnes 4 ++ 0#15 ++ BitVec.allOnes 1 ++ 0#2 ++ BitVec.allOnes 2 ++ 0#1 ++ BitVec.allOnes 7) := by
        simp only [extract_and_append, BitVec.and_allOnes, BitVec.and_zero]; rfl
    _ = w &&& fieldMask w := by simp [fieldMask, h]

/-- Encoding a decoded word clears its reserved bits (R103, R111). -/
theorem encode_decode (w : Word) : encode (decode w) = w &&& fieldMask w := by
  rcases opcode_cases (opField w) with h | h | h | h | h | h | h | h | h | h | h | h | h | h | h | h
  · exact encode_decode_of_no_operand (decode_nop h) rfl (by simp [fieldMask, h])
  · exact encode_decode_of_no_operand (decode_tick h) rfl (by simp [fieldMask, h])
  · exact encode_decode_trig h
  · exact encode_decode_setpitch h
  · exact encode_decode_setnoise h
  · exact encode_decode_setflag h
  · exact encode_decode_play h
  · exact encode_decode_of_no_operand (decode_rectoggle h) rfl (by simp [fieldMask, h])
  · exact encode_decode_of_no_operand (decode_tap h) rfl (by simp [fieldMask, h])
  · exact encode_decode_bank h
  · exact encode_decode_of_no_operand (decode_step h) rfl (by simp [fieldMask, h])
  · exact encode_decode_of_no_operand (decode_loopiter h) rfl (by simp [fieldMask, h])
  · exact encode_decode_settempo h
  · exact encode_decode_rdreg h
  · exact encode_decode_rdseq h
  · exact encode_decode_of_no_operand (decode_reservedF h) rfl (by simp [fieldMask, h])

/-- Settles O3: the fields a row encodes are the ones its mask keeps. -/
theorem encodeAfterDecodeClearsReservedBits : Obligations.EncodeAfterDecodeClearsReservedBits := encode_decode

/-- Clearing the reserved bits of a word leaves the operation it decodes to (R103). -/
theorem decode_and_fieldMask (w : Word) : decode (w &&& fieldMask w) = decode w := by
  rw [← encode_decode, decode_encode (decode_wf w)]

/-- Settles O1: each example line and each example word is run. -/
theorem exampleWordsAssembleAndDecode : Obligations.ExampleWordsAssembleAndDecode := by
  unfold Obligations.ExampleWordsAssembleAndDecode
  decide

end Sys2Proof
end

section
/-! Reserved bits, reserved encodings and the mode flags, as the block obeys them (`spec/30_encoding.md` R103, R105,
R110; `spec/46_control.md` R261, R266). -/

namespace Sys2Proof.Machine

/-- Settles O4: a word and its cleared form decode to one operation, and only a reserved encoding sets cmdErr. -/
theorem reservedBitsAreIgnored : Obligations.ReservedBitsAreIgnored := by
  intro w s
  rw [decode_and_fieldMask]
  refine ⟨rfl, fun hres => ?_⟩
  obtain ⟨t, ht, herr⟩ := cmdErrIsSticky (decode w) s
  exact ⟨t, ht, by rw [herr, hres, Bool.or_false]⟩

/-- A reserved encoding sets cmdErr, a reserved read also zeroes rdata, and nothing else changes (R110). -/
theorem exec_of_isReserved {i : Instr} (h : i.isReserved = true) (s : State) :
    exec i s = .next { s with host := { s.host with
      cmdErr := true
      rdata := if i.opcode = 0xD ∨ i.opcode = 0xE then 0 else s.host.rdata } } := by
  cases i with
  | setflag id b =>
    cases id with
    | reserved id => rfl
    | _ => exact absurd h Bool.false_ne_true
  | rdreg r =>
    cases r with
    | reserved r => rfl
    | _ => exact absurd h Bool.false_ne_true
  | rdseq q =>
    cases q with
    | reserved t a => rfl
    | _ => exact absurd h Bool.false_ne_true
  | reservedF => rfl
  | _ => exact absurd h Bool.false_ne_true

/-- Settles O51: the effect of a reserved operation, with its opcode read from the word. -/
theorem reservedEncodingsOnlyReport : Obligations.ReservedEncodingsOnlyReport := by
  refine ⟨fun w s h => ⟨decode_reservedF h, exec_reservedF s⟩, fun w s hres => ?_⟩
  have hexec := exec_of_isReserved hres s
  rwa [opcode_decode] at hexec

/-! ## SETFLAG -/

theorem decodeFlag_of_six_le {id : BitVec 4} (h : 6 ≤ id.toNat) : decodeFlag id = .reserved id := by
  revert id; decide

/-- The word of SETFLAG: opcode 5, the identifier from bit 8, the flag's value in bit 0 (R101, R105). -/
theorem encode_setflag_decodeFlag (id : BitVec 4) (b : Bool) : encode (.setflag (decodeFlag id) b) =
    0x50000000#32 ||| (id.setWidth 32 <<< 8) ||| (BitVec.ofBool b).setWidth 32 := by
  revert id b; decide

/-- Settles O43: the identifiers, the word both ways, and the effect of each identifier as `setFlag` writes it. -/
theorem setflagWritesOneFlag : Obligations.SetflagWritesOneFlag :=
  ⟨⟨rfl, rfl, rfl, rfl, rfl, rfl, fun _ => decodeFlag_of_six_le⟩, fun _ => decode_setflag,
    encode_setflag_decodeFlag, fun _ _ => ⟨rfl, rfl, rfl, rfl, rfl⟩, fun _ => ⟨rfl, rfl⟩, fun _ _ _ => rfl⟩

end Sys2Proof.Machine
end

section
/-! The output stream, as TICK and the host commands leave it (`spec/40_tick.md` R125). -/

namespace Sys2Proof.Machine

/-- Settles O34: a TICK leaves `tickState`, which appends its sample, and a host command keeps the stream. -/
theorem oneBytePerTick : Obligations.OneBytePerTick :=
  ⟨fun s => ⟨tickState s, exec_tick s, tickState_emitted s⟩,
    fun i s hi => ⟨after i s, exec_eq_after s i, after_emitted_of_ne s hi⟩⟩

end Sys2Proof.Machine
end

section
/-! The time base of a TICK: the counter, the step advance and the stopped transport (`spec/41_timebase.md` R130 to
R136). -/

namespace Sys2Proof.Machine

variable {s : State}

/-! ## Counter -/

/-- Settles O14: a TICK counts itself, and every other operation keeps all TICK-written fields. -/
theorem onlyTickAdvancesTheCounter : Obligations.OnlyTickAdvancesTheCounter :=
  ⟨fun s => ⟨tickState s, exec_tick s, by rw [tickState_tickCounter, BitVec.toNat_add]; rfl⟩,
    fun i s hi => ⟨after i s, exec_eq_after s i, by rw [after_tick_of_ne s hi]⟩⟩

/-! ## Step advance -/

/-- The next step index in numbers (R36, R132). -/
theorem stepIndex_succ_toNat (i : StepNo) : (i + 1).toNat = (i.toNat + 1) % 32 := BitVec.toNat_add i 1

/-- Settles O15: the two outcomes of the internal tempo branch. -/
theorem internalTempoAdvancesTheStep : Obligations.InternalTempoAdvancesTheStep := by
  intro s hplay hint
  obtain ⟨hidx, hlast⟩ := tickTime_internal s hplay hint
  refine ⟨tickState s, exec_tick s, fun hlt => ?_, fun hlt => ?_⟩
  · rw [tickState_stepIndex, tickState_lastStepTick, tickState_tickCounter, hidx, hlast,
      if_pos (BitVec.lt_def.mpr hlt), if_pos (BitVec.lt_def.mpr hlt)]
    exact ⟨stepIndex_succ_toNat _, rfl⟩
  · rw [tickState_stepIndex, tickState_lastStepTick, hidx, hlast, if_neg (mt BitVec.lt_def.mp hlt),
      if_neg (mt BitVec.lt_def.mp hlt)]
    exact ⟨rfl, rfl⟩

/-- Settles O16: the two outcomes of the external tempo branch, and the bookkeeping clears the latch. -/
theorem externalTempoFollowsTheStepLatch : Obligations.ExternalTempoFollowsTheStepLatch := by
  refine fun s => ⟨tickState s, exec_tick s, by rw [tickState_latch], fun hplay hext => ?_⟩
  obtain ⟨hidx, hlast⟩ := tickTime_external s hplay hext
  rw [tickState_stepIndex, tickState_lastStepTick, tickState_tickCounter, hidx, hlast]
  refine ⟨fun hset => ?_, fun hclear => ?_⟩
  · rw [if_pos hset, if_pos hset]
    exact ⟨stepIndex_succ_toNat _, rfl⟩
  · rw [if_neg (Bool.eq_false_iff.mp hclear), if_neg (Bool.eq_false_iff.mp hclear)]
    exact ⟨rfl, rfl⟩

/-! ## Elapsed ticks -/

/-- A TICK that advances the step restarts the elapsed time, any other lets it grow by one (R132, R134). -/
theorem tickState_elapsed {c : Prop} [Decidable c]
    (h : (tickTime s).tick.lastStepTick = if c then s.tick.tickCounter + 1 else s.tick.lastStepTick) :
    (tickState s).elapsed = if c then 0 else s.elapsed + 1 := by
  rw [State.elapsed, tickState_tickCounter, tickState_lastStepTick, h]
  split
  · exact sub_self _
  · exact add_sub_right_comm _ _ _

/-- Internal tempo in terms of the elapsed ticks alone (R132). -/
theorem tickState_internal (hplay : s.host.play = true) (hint : s.host.extTempo = false) :
    (tickState s).tick.stepIndex =
        (if s.host.stepLength < s.elapsed + 1 then s.tick.stepIndex + 1 else s.tick.stepIndex) ∧
      (tickState s).elapsed = if s.host.stepLength < s.elapsed + 1 then 0 else s.elapsed + 1 := by
  have hnext : s.elapsed + 1 = s.tick.tickCounter + 1 - s.tick.lastStepTick := (add_sub_right_comm _ _ _).symm
  obtain ⟨hidx, hlast⟩ := tickTime_internal s hplay hint
  rw [tickState_elapsed hlast, tickState_stepIndex, hidx, hnext]
  exact ⟨rfl, rfl⟩

/-- External tempo in the same terms (R134). -/
theorem tickState_external (hplay : s.host.play = true) (hext : s.host.extTempo = true) :
    (tickState s).tick.stepIndex = (if s.latch.step then s.tick.stepIndex + 1 else s.tick.stepIndex) ∧
      (tickState s).elapsed = if s.latch.step then 0 else s.elapsed + 1 := by
  obtain ⟨hidx, hlast⟩ := tickTime_external s hplay hext
  exact ⟨by rw [tickState_stepIndex, hidx], tickState_elapsed hlast⟩

/-- Settles O21: each branch of the time base writes the step and the elapsed time from the tempo inputs alone. -/
theorem stepTimingDependsOnlyOnTheTimeBase : Obligations.StepTimingDependsOnlyOnTheTimeBase := by
  intro s s' helapsed hidx hlen hplay hext hlatch
  change s.elapsed = s'.elapsed at helapsed
  refine ⟨tickState s, tickState s', exec_tick s, exec_tick s', ?_⟩
  change _ ∧ (_ → (tickState s).elapsed = (tickState s').elapsed)
  cases hp : s.host.play with
  | false =>
    have hstep := (tickTime_stopped s hp).1
    have hstep' := (tickTime_stopped s' (hplay ▸ hp)).1
    exact ⟨by rw [tickState_stepIndex, tickState_stepIndex, hstep, hstep'], fun h => absurd h Bool.false_ne_true⟩
  | true =>
    cases he : s.host.extTempo with
    | true =>
      obtain ⟨hi, hel⟩ := tickState_external hp he
      obtain ⟨hi', hel'⟩ := tickState_external (hplay ▸ hp) (hext ▸ he)
      rw [hi, hi', hel, hel', helapsed, hidx, hlatch]
      exact ⟨rfl, fun _ => rfl⟩
    | false =>
      obtain ⟨hi, hel⟩ := tickState_internal hp he
      obtain ⟨hi', hel'⟩ := tickState_internal (hplay ▸ hp) (hext ▸ he)
      rw [hi, hi', hel, hel', helapsed, hidx, hlen]
      exact ⟨rfl, fun _ => rfl⟩

/-! ## Step period -/

/-- A playing TICK on internal tempo with step length L, from a state with these TICK-written fields: what the host did
since the last TICK is free otherwise. -/
def TicksOnLength (L : Word) (s t : State) : Prop :=
  ∃ u : State, u.tick = s.tick ∧ u.host.play = true ∧ u.host.extTempo = false ∧ u.host.stepLength = L ∧
    exec .tick u = .next t

theorem TicksOnLength.advances_or_holds {L : Word} {t : State} (h : TicksOnLength L s t) :
    t.tick.stepIndex = (if L < s.elapsed + 1 then s.tick.stepIndex + 1 else s.tick.stepIndex) ∧
      t.elapsed = if L < s.elapsed + 1 then 0 else s.elapsed + 1 := by
  obtain ⟨u, htick, hplay, hint, rfl, hexec⟩ := h
  have hu : u.elapsed = s.elapsed := by rw [State.elapsed, htick, State.elapsed]
  have hspec := tickState_internal hplay hint
  rw [hu, htick] at hspec
  exact Host.Outcome.next.inj hexec ▸ hspec

/-- L TICKs after an advance the step is the same and L ticks have elapsed (R132). -/
theorem step_holds_until_length {L : Word} {f : Nat → State} (hzero : (f 0).elapsed = 0)
    (hrun : ∀ k ≤ L.toNat, TicksOnLength L (f k) (f (k + 1))) {k : Nat} (hk : k ≤ L.toNat) :
    (f k).tick.stepIndex = (f 0).tick.stepIndex ∧ (f k).elapsed = BitVec.ofNat 32 k := by
  induction k with
  | zero => exact ⟨rfl, hzero⟩
  | succ k ih =>
    obtain ⟨hidx, helapsed⟩ := ih (by omega)
    have hnext : (f k).elapsed + 1 = BitVec.ofNat 32 (k + 1) := by rw [helapsed, BitVec.ofNat_add]; rfl
    have hlt : ¬L < BitVec.ofNat 32 (k + 1) := by
      rw [BitVec.lt_def, BitVec.toNat_ofNat, Nat.mod_eq_of_lt (by have := L.isLt; omega)]
      omega
    obtain ⟨hidx', helapsed'⟩ := (hrun k (by omega)).advances_or_holds
    rw [hnext, if_neg hlt] at hidx' helapsed'
    exact ⟨hidx'.trans hidx, helapsed'⟩

/-- Settles O20: the step holds for L TICKs, and then L + 1 elapsed ticks exceed L. -/
theorem stepPeriodIsLengthPlusOne : Obligations.StepPeriodIsLengthPlusOne := by
  intro L f hL hzero hrun
  have hzero' : (f 0).elapsed = 0 := sub_eq_zero.mpr hzero.symm
  have hold := fun k hk => step_holds_until_length (k := k) hzero' hrun hk
  obtain ⟨hidx, helapsed⟩ := hold L.toNat le_rfl
  have hlt : L < (f L.toNat).elapsed + 1 := by
    rw [helapsed, BitVec.ofNat_toNat, BitVec.setWidth_eq]
    bv_omega
  obtain ⟨hidx', helapsed'⟩ := TicksOnLength.advances_or_holds (hrun L.toNat le_rfl)
  rw [if_pos hlt] at hidx' helapsed'
  exact ⟨fun k hk => (hold k hk).1, by rw [hidx', hidx], (sub_eq_zero.mp helapsed').symm⟩

/-! ## Stopped transport -/

/-- While stopped a voice is triggered by a live latch of a track routed to it and by nothing else (R133, R164). -/
theorem tickTime_voiceTrig_stopped_iff (hplay : s.host.play = false) (v : VoiceNo) :
    (tickTime s).voiceTrig (tickTime s).stepEdge v = true ↔
      ∃ n : Track, v ∈ s.cfg.trackVoices[n] ∧ s.latch.live[n] = true := by
  simp only [voiceTrig_iff, tickTime_fire_stopped s hplay, tickTime_cfg]

/-- Settles O17: the voice step of a stopped TICK, by its trigger and by the stop reset. -/
theorem stoppedTickRestsAndResetsVoices : Obligations.StoppedTickRestsAndResetsVoices := by
  intro s hplay
  obtain ⟨hidx, hlast⟩ := tickTime_stopped s hplay
  refine ⟨tickState s, exec_tick s, by rw [tickState_stepIndex, hidx], by rw [tickState_lastStepTick, hlast],
    fun v => ?_⟩
  have htrig := tickTime_voiceTrig_stopped_iff hplay v
  have huntrig : (∀ n : Track, v ∈ s.cfg.trackVoices[n] → s.latch.live[n] = false) →
      (tickTime s).voiceTrig (tickTime s).stepEdge v = false := fun h =>
    Bool.eq_false_iff.mpr fun h' =>
      have ⟨n, hv, hlive⟩ := htrig.mp h'
      Bool.false_ne_true ((h n hv).symm.trans hlive)
  rw [tickState_voices]
  refine ⟨fun h => ?_, fun h hstop => ?_, fun h hstop => ?_⟩
  · rw [htrig.mpr h, Voice.next_trig, Voice.started]
  · rw [huntrig h, stopReset_iff.mpr ⟨hplay, hstop⟩, Voice.next_stop, Voice.idle]
  · rw [huntrig h, Bool.eq_false_iff.mpr fun h' => hstop (stopReset_iff.mp h').2]

end Sys2Proof.Machine
end

section
/-! The click of a TICK: its retrigger, its decay, and the envelope over a run (`spec/41_timebase.md` R137 to R139). -/

namespace Sys2Proof.Machine

variable {s : State}

/-- The TICK from s arrives at a quarter step (R135, R137). -/
def State.QuarterEdge (s : State) : Prop :=
  (tickState s).tick.stepIndex ≠ s.tick.prevStepIndex ∧ (tickState s).tick.stepIndex.toNat % 4 = 0

theorem quarterEdge_iff :
    s.QuarterEdge ↔ (tickTime s).stepEdge = true ∧ (tickTime s).tick.stepIndex.toNat % 4 = 0 := by
  rw [State.QuarterEdge, tickTime_stepEdge_iff, tickState_stepIndex]

/-- A quarter-step edge retriggers the click (R137). -/
theorem tickState_retriggers (h : s.QuarterEdge) :
    (tickState s).tick.clickInc = clickPitch s.cfg (tickState s).tick.stepIndex ∧
      (tickState s).tick.clickAmp = 64 ∧ (tickState s).tick.clickDiv = 0 := by
  rw [tickState_clickInc, tickState_clickAmp, tickState_clickDiv, tickState_stepIndex]
  rcases clickEnvelope_spec (tickTime s) (tickTime s).stepEdge with ⟨-, -, hclick⟩ | ⟨hno, -⟩
  · rwa [tickTime_cfg] at hclick
  · exact absurd (quarterEdge_iff.mp h) hno

/-- Any other TICK keeps the pitch and runs one decay step (R138). -/
theorem tickState_decays (h : ¬s.QuarterEdge) :
    (tickState s).tick.clickInc = s.tick.clickInc ∧
      ((s.tick.clickDiv = 4 ∧ (tickState s).tick.clickDiv = 0 ∧
          (tickState s).tick.clickAmp = decayedAmp s.tick.clickAmp) ∨
        (s.tick.clickDiv ≠ 4 ∧ (tickState s).tick.clickDiv = s.tick.clickDiv + 1 ∧
          (tickState s).tick.clickAmp = s.tick.clickAmp)) := by
  rw [tickState_clickInc, tickState_clickAmp, tickState_clickDiv]
  rcases clickEnvelope_spec (tickTime s) (tickTime s).stepEdge with ⟨hedge, hquarter, -⟩ | ⟨-, hinc, hamp, hdiv⟩
  · exact absurd (quarterEdge_iff.mpr ⟨hedge, hquarter⟩) h
  · have hdecay := clickDecay_spec (tickTime s)
    rw [tickTime_clickDiv, tickTime_clickAmp] at hdecay
    rw [hinc, hamp, hdiv, tickTime_clickInc]
    exact ⟨rfl, hdecay⟩

theorem clickPitch_eq (cfg : Config) (i : StepNo) : clickPitch cfg i =
    if i.toNat = 0 then cfg.clickIncLow else if i.toNat % 8 = 0 then cfg.clickIncMid else cfg.clickIncHigh := by
  have hzero : i = 0 ↔ i.toNat = 0 := BitVec.toNat_eq
  simp only [clickPitch, hzero]

/-- Settles O18: a retrigger or one decay step, the latter by the prescaler. -/
theorem clickSchedulingAndDecay : Obligations.ClickSchedulingAndDecay := by
  refine fun s => ⟨tickState s, exec_tick s, fun hedge => ?_, fun hedge => ?_⟩
  · obtain ⟨hinc, hamp, hdiv⟩ := tickState_retriggers hedge
    exact ⟨hamp, hdiv, by rw [hinc, clickPitch_eq]⟩
  · obtain ⟨hinc, hdecay⟩ := tickState_decays hedge
    refine ⟨hinc, fun hne => ?_, fun h4 => ?_⟩
    · rcases hdecay with ⟨hdiv4, -⟩ | ⟨-, hdiv, hamp⟩
      · exact absurd (congrArg BitVec.toNat hdiv4) hne
      · exact ⟨hdiv, hamp⟩
    · rcases hdecay with ⟨-, hdiv, hamp⟩ | ⟨hdiv4, -⟩
      · refine ⟨hdiv, ?_⟩
        rw [hamp, decayedAmp_toNat]
        split_ifs <;> omega
      · exact absurd (BitVec.eq_of_toNat_eq h4) hdiv4

/-- The click amplitude n TICKs after a retrigger (R139). -/
def envelopeAmp (n : Nat) : Nat := if n ≤ 304 then 64 - n / 5 else 0

/-- The registers of the click envelope n TICKs after a retrigger (R138, R139). -/
def TickRegs.OnEnvelope (r : TickRegs) (n : Nat) : Prop := r.clickAmp.toNat = envelopeAmp n ∧ r.clickDiv.toNat = n % 5

/-- A TICK without a retrigger moves one place on along the envelope. -/
theorem tickState_onEnvelope {n : Nat} (h : ¬s.QuarterEdge) (hs : s.tick.OnEnvelope n) :
    (tickState s).tick.OnEnvelope (n + 1) := by
  obtain ⟨hamp, hdiv⟩ := hs
  unfold TickRegs.OnEnvelope
  unfold envelopeAmp at *
  rcases (tickState_decays h).2 with ⟨h4, hdiv', hamp'⟩ | ⟨h4, hdiv', hamp'⟩
  · have hn : n % 5 = 4 := by rw [← hdiv, h4]; rfl
    rw [hamp', hdiv', decayedAmp_toNat, hamp]
    refine ⟨by split_ifs <;> omega, ?_⟩
    change 0 = (n + 1) % 5
    omega
  · have hn : n % 5 ≠ 4 := fun hn => h4 (BitVec.eq_of_toNat_eq (hdiv.trans hn))
    rw [hamp', hdiv', hamp]
    refine ⟨by split_ifs <;> omega, ?_⟩
    change (s.tick.clickDiv.toNat + 1) % 8 = (n + 1) % 5
    omega

/-- Settles O19: the run starts on the envelope and every TICK of it moves one place on. -/
theorem clickEnvelopeOverARun : Obligations.ClickEnvelopeOverARun := by
  intro n f hamp hdiv hrun
  suffices h : (f n).tick.OnEnvelope n from h.1
  induction n with
  | zero => exact ⟨by rw [hamp]; rfl, by rw [hdiv]; rfl⟩
  | succ n ih =>
    obtain ⟨u, htick, hexec, hedge⟩ := hrun n (by omega)
    have hu : tickState u = f (n + 1) := Host.Outcome.next.inj hexec
    rw [← hu] at hedge ⊢
    exact tickState_onEnvelope hedge (htick ▸ ih fun k hk => hrun k (by omega))

end Sys2Proof.Machine
end

section
/-! The commands PLAY, TAP, SETTEMPO and STEP (`spec/41_timebase.md` R140 to R147), and pulses that merge before a TICK
(R123, R170). -/

namespace Sys2Proof.Machine

variable {s : State}

/-! ## PLAY, STEP, SETTEMPO -/

/-- Settles O37: PLAY as `setTransport` writes it, and its two words. -/
theorem playSetsTheTransport : Obligations.PlaySetsTheTransport := 
  ⟨fun s => exec_play s true, fun s => exec_play s false, rfl, rfl⟩

/-- Settles O40: the word and the effect of STEP. -/
theorem stepSetsTheLatch : Obligations.StepSetsTheLatch := ⟨rfl, exec_step⟩

/-- The word of SETTEMPO: opcode 0xC above the 28-bit value (R101, R145). -/
theorem encode_settempo (val : BitVec 28) : encode (.settempo val) = 0xC0000000#32 ||| val.setWidth 32 :=
  BitVec.append_def _ _

/-- `max(1, zext_32(val))` as a number (R145). -/
theorem atLeastOne_setWidth (val : BitVec 28) : atLeastOne (val.setWidth 32) = BitVec.ofNat 32 (max 1 val.toNat) := by
  have hval := val.isLt
  apply BitVec.eq_of_toNat_eq
  rw [atLeastOne_toNat, BitVec.toNat_setWidth_of_le (by omega), BitVec.toNat_ofNat, Nat.mod_eq_of_lt (by omega)]

/-- Settles O39, from the word and from what `max(1, val)` is as a number. -/
theorem settempoSetsTheStepLength : Obligations.SettempoSetsTheStepLength :=
  ⟨encode_settempo, fun val s => by rw [exec_settempo, atLeastOne_setWidth]⟩

/-! ## TAP -/

theorem tapEvent_closed (h : s.host.tapGate = false) : tapEvent s = s := if_neg (by simp [h])

theorem tapEvent_open (h : s.host.tapGate = true) : tapEvent s = applyTaps (recordTap s) := if_pos h

/-- What an accepted tap leaves in the two interval slots (R141). -/
theorem recordTap_tapHist (k : Fin 2) : (recordTap s).host.tapHist[k] =
    if k.val = s.host.tapSlot.toNat then (s.tick.tickCounter - s.host.prevTapTick) >>> tapShift
    else s.host.tapHist[k] := by
  simp only [recordTap, Fin.getElem_fin, Vector.getElem_set, eq_comm]

/-- Two counted taps set the step length to their mean, at least 1; fewer keep it (R141). -/
theorem applyTaps_stepLength : (applyTaps s).host.stepLength =
    if s.host.tapCount.toNat = 2 then atLeastOne s.host.tapMean else s.host.stepLength := by
  have htwo : s.host.tapCount = 2 ↔ s.host.tapCount.toNat = 2 := BitVec.toNat_eq
  by_cases h : s.host.tapCount = 2
  · rw [applyTaps, if_pos h, if_pos (htwo.mp h)]
  · rw [applyTaps, if_neg h, if_neg (mt htwo.mpr h)]

/-- Rescaling an interval by TAP_SHIFT divides it by four (R141). -/
theorem tapShift_toNat (w : Word) : (w >>> tapShift).toNat = w.toNat / 4 := by
  rw [BitVec.toNat_ushiftRight, Nat.shiftRight_eq_div_pow, tapShift]

/-- The other tap slot (R34, R141). -/
theorem otherTapSlot_toNat (b : BitVec 1) : (1 - b).toNat = 1 - b.toNat := by revert b; decide

/-- Settles O38: an accepted tap records its interval, and the count it leaves decides about the step length. -/
theorem tapMeasuresTheTempo : Obligations.TapMeasuresTheTempo := by
  refine ⟨rfl, fun s hgate => by rw [exec_tap, tapEvent_closed hgate], fun s hgate => ?_⟩
  have hframe := tapEvent_frame s
  rw [tapEvent_open hgate] at hframe
  refine ⟨applyTaps (recordTap s), by rw [exec_tap, tapEvent_open hgate], ?_, fun k hk => ?_, fun k hk => ?_, ?_, ?_,
    fun htwo => ?_, fun htwo => ?_⟩
  · rwa [applyTaps_prevTapTick] at hframe
  · rw [applyTaps_tapHist, recordTap_tapHist, if_pos hk, tapShift_toNat]
  · rw [applyTaps_tapHist, recordTap_tapHist, if_neg hk]
  · rw [applyTaps_tapSlot]
    exact otherTapSlot_toNat _
  · rw [applyTaps_tapCount]
    exact tapCount_next _
  · rw [applyTaps_tapCount] at htwo
    rw [applyTaps_stepLength, if_pos htwo, atLeastOne_toNat, tapMean_toNat, applyTaps_tapHist]
  · rw [applyTaps_tapCount] at htwo
    rw [applyTaps_stepLength, if_neg htwo]
    rfl

/-! ## Pulses before a TICK -/

/-- TRIG moves neither the write index nor the bank, so a second one writes the slot the first one wrote (R231). -/
theorem liveTrigger_slotOf_writeIndex (n : Track) :
    (liveTrigger n s).slotOf (liveTrigger n s).writeIndex = s.slotOf s.writeIndex := by
  have hindex : (liveTrigger n s).writeIndex = s.writeIndex := by
    apply BitVec.eq_of_toNat_eq
    rw [writeIndex_toNat, writeIndex_toNat, liveTrigger_host, liveTrigger_tick]
  simp only [State.slotOf, hindex, liveTrigger_cfg, liveTrigger_host]

/-- Storing the same values in the same slot again changes nothing (R87). -/
theorem liveTrigger_liveTrigger_mem (n : Track) : (liveTrigger n (liveTrigger n s)).mem = (liveTrigger n s).mem := by
  rw [liveTrigger_mem, liveTrigger_slotOf_writeIndex, liveTrigger_host, liveTrigger_mem]
  cases s.host.record with
  | false => rfl
  | true =>
    cases melodicOf n with
    | none => simp
    | some m => simp [Memory.writeTrig_writePitch]

/-- A second TRIG of the same track finds its latch set and its slot written (R170). -/
theorem liveTrigger_liveTrigger (n : Track) : liveTrigger n (liveTrigger n s) = liveTrigger n s := by
  have hlatch : { (liveTrigger n s).latch with live := (liveTrigger n s).latch.live.set n true } =
      (liveTrigger n s).latch := by rw [liveTrigger_latch, Vector.set_set]
  rw [liveTrigger_frame (liveTrigger n s), liveTrigger_liveTrigger_mem, hlatch]

/-- The state without its recording: the part of a stop that the next start does not undo (R140). -/
def stopRecording (s : State) : State := { s with host := { s.host with record := false, eraseCount := 0 } }

theorem setTransport_stop_start (hplay : s.host.play = true) :
    setTransport true (setTransport false s) = stopRecording s := by
  simp only [setTransport, stopRecording, Bool.false_and, Bool.and_false, hplay]

/-! No stage of a TICK reads the record flag or the erase counter (R120). -/

theorem timeBase_stopRecording : timeBase (stopRecording s) = stopRecording (timeBase s) := by
  unfold timeBase externalTempo internalTempo
  simp only [apply_ite stopRecording]
  rfl

theorem clickEnvelope_stopRecording (edge : Bool) :
    clickEnvelope edge (stopRecording s) = stopRecording (clickEnvelope edge s) := by
  unfold clickEnvelope clickDecay
  simp only [apply_ite stopRecording]
  rfl

theorem tickTime_stopRecording : tickTime (stopRecording s) = stopRecording (tickTime s) :=
  timeBase_stopRecording (s := advanceCounter s)

theorem loadPitches_stopRecording (edge : Bool) :
    loadPitches edge (stopRecording s) = stopRecording (loadPitches edge s) := rfl

theorem voiceStage_stopRecording (edge stop : Bool) :
    voiceStage edge stop (stopRecording s) = stopRecording (voiceStage edge stop s) := rfl

theorem mixerStage_stopRecording : mixerStage (stopRecording s) = stopRecording (mixerStage s) := rfl

theorem endOfTick_stopRecording : endOfTick (stopRecording s) = stopRecording (endOfTick s) := rfl

theorem tickState_stopRecording : tickState (stopRecording s) = stopRecording (tickState s) := by
  have hedge : (stopRecording (tickTime s)).stepEdge = (tickTime s).stepEdge := rfl
  have hstop : (stopRecording s).stopReset = s.stopReset := rfl
  simp only [tickState, tickSound, tickTime_stopRecording, hedge, hstop, clickEnvelope_stopRecording,
    loadPitches_stopRecording, voiceStage_stopRecording, mixerStage_stopRecording, endOfTick_stopRecording]

/-- Settles O55: a repeated pulse finds everything it writes already there, and a stop undone leaves a TICK only what it
does not read. -/
theorem pulsesMergeBeforeATick : Obligations.PulsesMergeBeforeATick := by
  refine ⟨fun n s => ⟨liveTrigger n s, exec_trig s n, ?_⟩, fun s => ⟨_, exec_step s, exec_step _⟩,
    fun s hplay => ?_⟩
  · rw [exec_trig, liveTrigger_liveTrigger]
  · refine ⟨setTransport false s, stopRecording s, tickState (stopRecording s), tickState s, exec_play s false, ?_,
      exec_tick _, exec_tick s, ?_⟩
    · rw [exec_play, setTransport_stop_start hplay]
    · rw [tickState_stopRecording]
      exact ⟨rfl, rfl⟩

end Sys2Proof.Machine
end

section
/-! The step sequencer and the trigger multiplexer: what the triggers of a TICK start and pitch, what TRIG latches and
records, and the commands that write one control register (`spec/42_sequencer.md` R160 to R172). -/

namespace Sys2Proof.Machine

variable {s : State}

/-! ## The triggers of a TICK -/

/-- Settles O22: the track's live or sequenced trigger fires, and a voice it is routed to starts. -/
theorem triggersStartTheRoutedVoices : Obligations.TriggersStartTheRoutedVoices := by
  refine fun s => ⟨tickState s, exec_tick s, fun v n a hv ha hfire => ?_⟩
  rw [tickState_stepIndex] at ha hfire
  have htrig : (tickTime s).voiceTrig (tickTime s).stepEdge v = true :=
    (voiceTrig_iff _ _ v).mpr ⟨n, by rwa [tickTime_cfg], (tickTime_fire_iff s ha).mpr hfire⟩
  rw [tickState_voices, htrig, Voice.next_trig, Voice.started]

/-- The increment a TICK leaves a pitched voice, by the triggers of its own track and the slot under the playhead (R165,
R166). -/
theorem tickState_inc_pitched {m : Melodic} {n : Track} {v : VoiceNo} {a : Slot} (hn : n.val = 2 + m.val)
    (hv : v.val = 4 + m.val)
    (ha : a.toNat = (tickTime s).tick.stepIndex.toNat + s.cfg.bankOffsets[s.host.bank.toNat]) :
    (tickState s).inc v =
      if s.latch.live[n] = true then s.host.livePitch[m]
      else if (tickTime s).seqTrig (tickTime s).stepEdge n = true then s.mem.readPitch m a
      else s.inc v := by
  have htrack : melodicTrack m = n := Fin.ext ((melodicTrack_val m).trans hn.symm)
  rw [inc_pitched _ hv, inc_pitched _ hv, tickState_pitchedInc, State.nextPitch, htrack, tickTime_liveTrig,
    tickTime_playSlot s ha, tickTime_host, tickTime_mem, tickTime_pitchedInc]

/-- Settles O24: the percussive increments are configured, and a pitched one is chosen by its track's triggers. -/
theorem pitchedIncrements : Obligations.PitchedIncrements := by
  refine fun s => ⟨tickState s, exec_tick s, fun v => by rw [inc_percussive, tickState_cfg],
    fun m n v a hn hv ha => ?_⟩
  rw [tickState_stepIndex] at ha ⊢
  rw [tickState_inc_pitched hn hv ha, ← tickTime_seqTrig_iff s ha]
  refine ⟨fun hlive => if_pos hlive, fun hlive hseq => ?_, fun hlive hseq => ?_⟩
  · rw [if_neg (Bool.eq_false_iff.mp hlive), if_pos hseq]
  · rw [if_neg (Bool.eq_false_iff.mp hlive), if_neg hseq]

/-! ## TRIG -/

theorem encode_trig (n : Track) : encode (.trig n) = 0x20000000#32 ||| BitVec.ofNat 32 n.val := by
  revert n; decide

/-- The live latches after a TRIG (R170). -/
theorem liveTrigger_live (n k : Track) :
    (liveTrigger n s).latch.live[k] = (s.latch.live[k] || decide (k = n)) := by
  rw [liveTrigger_latch]
  by_cases h : k = n
  · simp [h]
  · have hne : n.val ≠ k.val := fun he => h (Fin.ext he.symm)
    simp [h, hne]

/-- The trigger slots after a recording TRIG: the quantized slot of its track is set (R232). -/
theorem liveTrigger_readTrig (hrec : s.host.record = true) (n k : Track) (b : Slot) :
    (liveTrigger n s).mem.readTrig k b =
      if k = n ∧ b = s.slotOf s.writeIndex then 1 else s.mem.readTrig k b := by
  rw [liveTrigger_mem, if_pos hrec]
  split
  · rw [Memory.readTrig_writePitch, Memory.readTrig_writeTrig]
  · rw [Memory.readTrig_writeTrig]

/-- The pitch slots after a recording TRIG: the quantized slot of a melodic track holds its live pitch (R232). -/
theorem liveTrigger_readPitch (hrec : s.host.record = true) (n : Track) (m : Melodic) (b : Slot) :
    (liveTrigger n s).mem.readPitch m b =
      if n.val = 2 + m.val ∧ b = s.slotOf s.writeIndex then s.host.livePitch[m] else s.mem.readPitch m b := by
  by_cases h : n.val = 2 + m.val
  · rw [liveTrigger_mem, if_pos hrec, (melodicOf_iff n m).mpr h]
    simp [h]
  · rw [liveTrigger_readPitch_of_ne h, if_neg fun hc => h hc.1]

/-- The slot a recording TRIG writes, from its number (R231, R232). -/
theorem slotOf_writeIndex_eq {w : StepNo} {a : Slot}
    (hw : w.toNat = if 3 * s.host.stepLength.toNat / 4 ≤ (s.tick.tickCounter - s.tick.lastStepTick).toNat
      then (s.tick.stepIndex.toNat + 1) % 32 else s.tick.stepIndex.toNat)
    (ha : a.toNat = w.toNat + s.cfg.bankOffsets[s.host.bank.toNat]) : s.slotOf s.writeIndex = a := by
  apply BitVec.eq_of_toNat_eq
  rw [slotOf_toNat, writeIndex_toNat, ha, hw]

/-- Settles O41: TRIG sets its latch, and while recording every slot reads as before but the one it writes. -/
theorem trigLatchesAndRecords : Obligations.TrigLatchesAndRecords := by
  refine ⟨encode_trig, fun n s => ⟨liveTrigger n s, exec_trig s n, ?frame, by rw [liveTrigger_latch],
    liveTrigger_live n, fun hrec => by simp [liveTrigger_mem, hrec], fun hrec w a hw ha => ?records⟩⟩
  case frame => rw [liveTrigger_latch]; exact liveTrigger_frame s n
  case records =>
    obtain rfl := slotOf_writeIndex_eq hw ha
    exact ⟨(liveTrigger_readTrig hrec n n _).trans (if_pos ⟨rfl, rfl⟩),
      fun k b hne => (liveTrigger_readTrig hrec n k b).trans (if_neg (not_and_or.mpr hne)),
      fun m hm => (liveTrigger_readPitch hrec n m _).trans (if_pos ⟨hm, rfl⟩),
      fun m b hne => (liveTrigger_readPitch hrec n m b).trans (if_neg (not_and_or.mpr hne))⟩

/-! ## BANK, SETPITCH, SETNOISE -/

theorem encode_bank (n : BitVec 2) : encode (.bank n) = 0x90000000#32 ||| n.setWidth 32 := by
  revert n; decide

/-- The word of SETNOISE: opcode 4 above the 16-bit value (R101, R213). -/
theorem encode_setnoise (val : Half) : encode (.setnoise val) = 0x40000000#32 ||| val.setWidth 32 :=
  BitVec.append_def _ _

/-- The word of SETPITCH: opcode 3, the melodic index in bit 16, the 16-bit value (R101, R190). -/
theorem encode_setpitch (m : Melodic) (val : Half) : encode (.setpitch m val) =
    0x30000000#32 ||| (BitVec.ofNat 32 m.val <<< 16) ||| val.setWidth 32 := by
  have hhigh : (0x3#4 ++ 0#11 ++ (BitVec.ofFin m : BitVec 1)).shiftLeftZeroExtend 16 =
      0x30000000#32 ||| (BitVec.ofNat 32 m.val <<< 16) := by revert m; decide
  rw [← hhigh]
  exact BitVec.append_def _ _

/-- Settles O42: each command's word, and its effect as `exec` writes it. -/
theorem controlRegisterWrites : Obligations.ControlRegisterWrites := by
  refine ⟨⟨encode_bank, encode_setpitch, encode_setnoise⟩, fun n s => exec_bank s n,
    fun m val s => ⟨_, exec_setpitch s m val, rfl, ?_, fun k hk => ?_⟩, fun val s => exec_setnoise s val⟩
  · exact Vector.getElem_set_self m.isLt
  · exact Vector.getElem_set_ne m.isLt k.isLt fun h => hk (Fin.ext h.symm)

end Sys2Proof.Machine
end

section
/-! How long a voice sounds and what the reverse flag changes (`spec/43_voices.md` R182 to R187). -/

namespace Sys2Proof.Machine

variable {s : State}

/-! ## The run of a voice -/

/-- The state of a voice `x` accumulator units after its trigger: inside its table it plays, past it it rests (R183). -/
def Voice.atDistance (len x : Nat) : Voice :=
  if x < 64 * (len + 1) then { acc := BitVec.ofNat 32 x, idx := BitVec.ofNat 16 (x / 64), active := true }
  else { acc := 0, idx := 0, active := false }

theorem Voice.atDistance_inside {len x : Nat} (h : x < 64 * (len + 1)) : Voice.atDistance len x =
    { acc := BitVec.ofNat 32 x, idx := BitVec.ofNat 16 (x / 64), active := true } := if_pos h

theorem Voice.atDistance_past {len x : Nat} (h : ¬x < 64 * (len + 1)) : Voice.atDistance len x = Voice.idle := if_neg h

/-- An untriggered TICK moves a voice on by its increment; the bound on the table keeps every bit of the sum (R186). -/
theorem Voice.next_atDistance (inc : Half) {len : Nat} (hlen : len ≤ 64511) (x : Nat) :
    (Voice.atDistance len x).next false false inc len = Voice.atDistance len (x + inc.toNat) := by
  have hinc := inc.isLt
  by_cases hx : x < 64 * (len + 1)
  · have hacc : (BitVec.ofNat 32 (x + inc.toNat)).toNat = x + inc.toNat := by
      rw [BitVec.toNat_ofNat, Nat.mod_eq_of_lt (by omega)]
    have hidx : (BitVec.ofNat 16 ((x + inc.toNat) / 64)).toNat = (x + inc.toNat) / 64 := by
      rw [BitVec.toNat_ofNat, Nat.mod_eq_of_lt (by omega)]
    rw [atDistance_inside hx, Voice.next_active rfl,
      Voice.advance_eq (acc := BitVec.ofNat 32 (x + inc.toNat)) (idx := BitVec.ofNat 16 ((x + inc.toNat) / 64)) rfl len
        (by rw [BitVec.toNat_ofNat, BitVec.toNat_ofNat, Nat.mod_add_mod])
        (by rw [hidx, hacc, Nat.mod_eq_of_lt (by omega)]), hidx]
    by_cases hend : len < (x + inc.toNat) / 64
    · rw [if_pos hend, atDistance_past (by omega), Voice.idle]
    · rw [if_neg hend, atDistance_inside (by omega)]
  · rw [atDistance_past hx, atDistance_past (by omega), Voice.next_inactive rfl]

/-- Settles O26: by induction on the TICKs since the trigger. -/
theorem voiceRunLength : Obligations.VoiceRunLength := by
  intro inc len k hlen
  change _ = Voice.atDistance len (k * inc.toNat)
  induction k with
  | zero => rw [Nat.zero_mul, Voice.atDistance_inside (by omega)]; rfl
  | succ k ih => rw [Function.iterate_succ_apply', ih, Voice.next_atDistance inc hlen, Nat.succ_mul]

/-! ## The reverse flag -/

/-- The state with the reverse flag at `b` (R41). -/
def withReverse (b : Bool) (s : State) : State := { s with host := { s.host with reverse := b } }

/-! No stage of a TICK before the mixer reads the reverse flag (R120, R184). -/

theorem timeBase_withReverse (b : Bool) : timeBase (withReverse b s) = withReverse b (timeBase s) := by
  unfold timeBase externalTempo internalTempo
  simp only [apply_ite (withReverse b)]
  rfl

theorem clickEnvelope_withReverse (b edge : Bool) :
    clickEnvelope edge (withReverse b s) = withReverse b (clickEnvelope edge s) := by
  unfold clickEnvelope clickDecay
  simp only [apply_ite (withReverse b)]
  rfl

theorem loadPitches_withReverse (b edge : Bool) :
    loadPitches edge (withReverse b s) = withReverse b (loadPitches edge s) := rfl

theorem voiceStage_withReverse (b edge stop : Bool) :
    voiceStage edge stop (withReverse b s) = withReverse b (voiceStage edge stop s) := rfl

theorem tickSound_withReverse (b : Bool) : tickSound (withReverse b s) = withReverse b (tickSound s) := by
  have htime : tickTime (withReverse b s) = withReverse b (tickTime s) :=
    timeBase_withReverse (s := advanceCounter s) b
  have hedge : (withReverse b (tickTime s)).stepEdge = (tickTime s).stepEdge := rfl
  have hstop : (withReverse b s).stopReset = s.stopReset := rfl
  simp only [tickSound, htime, hedge, hstop, clickEnvelope_withReverse, loadPitches_withReverse,
    voiceStage_withReverse]

theorem tickSound_emitted : (tickSound s).emitted = s.emitted := by simp [tickSound_eq, tickSequenced]

/-- The mixer reads the flag and writes the sample and the stream, so a TICK with another flag differs in these (R184,
R200). -/
theorem tickState_withReverse (b : Bool) : tickState (withReverse b s) =
    { withReverse b (tickState s) with
      tick := { (tickState s).tick with sample := (tickState (withReverse b s)).tick.sample }
      emitted := s.emitted ++ [(tickState (withReverse b s)).tick.sample] } := by
  unfold tickState
  rw [tickSound_withReverse, ← tickSound_emitted]
  rfl

/-- The read address of a percussive voice in reverse (R184). -/
theorem readAddr_reverse {v : VoiceNo} (hv : v.val < 4) (len idx : Nat) : readAddr true v len idx = len - idx := by
  simp [readAddr, hv]

/-- A pitched voice never reads in reverse (R184). -/
theorem readAddr_pitched {v : VoiceNo} (hv : 4 ≤ v.val) (reverse : Bool) (len idx : Nat) :
    readAddr reverse v len idx = idx := by
  simp [readAddr, Nat.not_lt.mpr hv]

/-- Settles O27: the flag commutes with every stage up to the mixer, which writes the sample alone. -/
theorem reverseOnlyMirrorsReads : Obligations.ReverseOnlyMirrorsReads := by
  refine ⟨fun s b => ⟨tickState s, tickState (withReverse b s), exec_tick s, exec_tick _, tickState_withReverse b⟩,
    fun v len idx hidx => ⟨rfl, fun hv => ⟨readAddr_reverse hv len idx, ?_⟩,
      fun hv => readAddr_pitched hv true len idx⟩⟩
  rw [readAddr_reverse hv, Nat.sub_sub_self hidx]

end Sys2Proof.Machine
end

section
/-! The byte a TICK emits, from the table bytes it reads (`spec/43_voices.md` R184, R185, `spec/44_mixer.md` R202 to
R212). -/

namespace Sys2Proof.Machine

variable {t : State}

/-- The sample of a voice, from its table byte in either direction (R184, R185). -/
theorem voiceSample_eq {v : VoiceNo} {x : Int} (hidle : t.tick.voices[v].active = false → x = 0)
    (hread : t.tick.voices[v].active = true → ∃ b : Byte, (t.cfg.table v)[if t.host.reverse = true ∧ v.val < 4
      then t.cfg.len[v] - t.tick.voices[v].idx.toNat else t.tick.voices[v].idx.toNat]? = some b ∧
      x = (b.toNat : Int) - 127) : t.voiceSample v = x := by
  unfold State.voiceSample
  cases hv : t.tick.voices[v].active with
  | false => exact (hidle hv).symm
  | true =>
    obtain ⟨b, hb, rfl⟩ := hread hv
    have haddr : readAddr t.host.reverse v t.cfg.len[v] t.tick.voices[v].idx.toNat =
        if t.host.reverse = true ∧ v.val < 4 then t.cfg.len[v] - t.tick.voices[v].idx.toNat
        else t.tick.voices[v].idx.toNat := by
      simp [readAddr]
    rw [if_pos rfl, haddr, tableByte_of_some hb, recentre, centre]

/-- The sum of the voice samples (R207). -/
theorem voiceSum_eq {x : VoiceNo → Int} (h : ∀ v, t.voiceSample v = x v) :
    t.voiceSum = x 0 + x 1 + x 2 + x 3 + x 4 + x 5 := by
  simp only [State.voiceSum, h]

/-- The sample of an oscillator with table `table` and accumulator `acc`, gated and scaled by the click envelope: the
common form of the click and the noise (R202 to R206). -/
def State.oscillatorSample (t : State) (table : List Byte) (acc : Word) : Int :=
  if t.clickGate then scaleByAmp t.tick.clickAmp (recentre (table.getD (acc.toNat / 64 % table.length) 0)) else 0

theorem clickSample_eq : t.clickSample = t.oscillatorSample t.cfg.clickTable t.tick.clickAcc := by
  rw [State.clickSample, clickIndex_eq]
  rfl

theorem noiseSample_eq : t.noiseSample = t.oscillatorSample t.cfg.noiseTable t.tick.noiseAcc := by
  rw [State.noiseSample, noiseIndex_eq]
  rfl

/-- An oscillator's sample, from its table entry while the gate is open (R203, R206). -/
theorem oscillatorSample_eq {table : List Byte} {acc : Word} {y : Int}
    (hclosed : ¬(t.host.play = true ∧ t.host.clickEn = true ∧ 4 ≤ t.tick.clickAmp.toNat) → y = 0)
    (hopen : t.host.play = true ∧ t.host.clickEn = true ∧ 4 ≤ t.tick.clickAmp.toNat →
      ∃ b : Byte, table[acc.toNat / 64 % table.length]? = some b ∧
        y = ((b.toNat : Int) - 127) * t.tick.clickAmp.toNat / 64) : t.oscillatorSample table acc = y := by
  rw [← clickGate_iff] at hclosed hopen
  unfold State.oscillatorSample
  split
  · next hgate =>
    obtain ⟨b, hb, rfl⟩ := hopen hgate
    rw [scaleByAmp_eq, List.getD_eq_getElem?_getD, hb, Option.getD_some, recentre, centre]
  · next hgate => exact (hclosed hgate).symm

/-- The mix of direct mode (R208). -/
theorem preFold_direct (h : t.host.mixBlend = false) : t.preFold = (t.voiceSum + t.clickSample) / 2 + 127 := by
  simp [State.preFold, h, mixDirect, asr, centre]

/-- The mix of blend mode (R209). -/
theorem preFold_blend (h : t.host.mixBlend = true) : t.preFold = 127 + t.voiceSum +
    (BitVec.ofInt 16 (t.clickSample / 2 ^ t.cfg.blendClickShift) ||| BitVec.ofInt 16 t.noiseSample).toInt := by
  simp [State.preFold, h, mixBlended, blendOf, or16, asr, centre]

/-- Settles O29: the sample is folded from the registers the TICK leaves, mixed directly. -/
theorem directModeOutput : Obligations.DirectModeOutput := by
  refine fun s hmode => ⟨tickState s, exec_tick s, fun x click hidle hread hclosed hopen =>
    ⟨?_, tickState_emitted s⟩⟩
  rw [← tickState_host s] at hmode hread hclosed hopen
  rw [← tickState_cfg s] at hread hopen
  rw [tickState_sample, preFold_direct hmode, voiceSum_eq fun v => voiceSample_eq (hidle v) (hread v),
    clickSample_eq, oscillatorSample_eq hclosed hopen]

/-- Settles O30: the sample is folded from the registers the TICK leaves, click and noise blended. -/
theorem blendModeOutput : Obligations.BlendModeOutput := by
  refine fun s hmode => ⟨tickState s, exec_tick s, fun x click noise hidle hread hclosed hopen =>
    ⟨?_, tickState_emitted s⟩⟩
  rw [← tickState_host s] at hmode hread hclosed hopen
  rw [← tickState_cfg s] at hread hopen ⊢
  rw [tickState_sample, preFold_blend hmode, voiceSum_eq fun v => voiceSample_eq (hidle v) (hread v),
    clickSample_eq, oscillatorSample_eq (fun h => (hclosed h).1) (fun h => (hopen h).1),
    noiseSample_eq, oscillatorSample_eq (fun h => (hclosed h).2) (fun h => (hopen h).2)]

end Sys2Proof.Machine
end

section
/-! The mixer of a TICK: the free-running accumulators, the fold-back, and the ranges of what is mixed
(`spec/44_mixer.md` R201 to R211). -/

namespace Sys2Proof.Machine

variable {t : State}

/-! ## The accumulators -/

/-- A 32-bit accumulator plus a zero-extended increment is the sum modulo 2^32 (R201, R204). -/
theorem toNat_add_setWidth {w : Nat} (hw : w ≤ 32) (acc : Word) (inc : BitVec w) :
    (acc + inc.setWidth 32).toNat = (acc.toNat + inc.toNat) % 2 ^ 32 := by
  rw [BitVec.toNat_add, BitVec.toNat_setWidth_of_le hw]

/-- Settles O28: no stage but the mixer's first writes the accumulators, and it adds the increments unconditionally. -/
theorem oscillatorsRunFree : Obligations.OscillatorsRunFree := by
  refine fun s => ⟨tickState s, exec_tick s, ?_, ?_⟩
  · rw [tickState_clickAcc, toNat_add_setWidth (by decide)]
  · rw [tickState_noiseAcc, toNat_add_setWidth (by decide)]

/-! ## The fold-back (R210, R211) -/

theorem foldBack_in_range {v : Int} (h0 : 0 ≤ v) (h1 : v ≤ 255) : foldBack v = v := by
  simp only [foldBack, if_neg (Int.not_lt.mpr h1), if_neg (Int.not_lt.mpr h0)]

theorem foldBack_negative {v : Int} (h : v < 0) : foldBack v = -v := by
  have h1 : ¬255 < v := by omega
  simp only [foldBack, if_neg h1, if_pos h]
  omega

theorem foldBack_above {v : Int} (h : 255 < v) (h0 : 0 ≤ v - 2 * (v - 255)) : foldBack v = 510 - v := by
  simp only [foldBack, if_pos h, if_neg (Int.not_lt.mpr h0)]
  omega

/-- The second reflection acts on the result of the first. -/
theorem foldBack_twice {v : Int} (h : 255 < v) (h0 : v - 2 * (v - 255) < 0) : foldBack v = v - 510 := by
  simp only [foldBack, if_pos h, if_pos h0]
  omega

/-- Within one byte's width of the range on either side, a single reflection suffices. -/
theorem foldBack_bounds {v : Int} (hlo : -255 ≤ v) (hhi : v ≤ 510) : 0 ≤ foldBack v ∧ foldBack v ≤ 255 := by
  rcases lt_or_ge v 0 with hneg | hnonneg
  · rw [foldBack_negative hneg]; omega
  · rcases le_or_gt v 255 with hin | habove
    · rw [foldBack_in_range hnonneg hin]; exact ⟨hnonneg, hin⟩
    · rw [foldBack_above habove (by omega)]; omega

theorem outByte_toNat (v : Int) : ((outByte v).toNat : Int) = foldBack v % 256 := by
  rw [outByte, BitVec.toNat_ofInt]
  exact Int.toNat_of_nonneg (Int.emod_nonneg _ (by decide))

/-- Settles O31, branch by branch of the fold; a folded value that is a byte is its own low 8 bits. -/
theorem foldBackReflectsOnce : Obligations.FoldBackReflectsOnce := by
  refine ⟨fun _ => foldBack_in_range, fun _ => foldBack_above, fun _ => foldBack_twice, fun _ => foldBack_negative,
    outByte_toNat, fun v hlo hhi => ?_⟩
  obtain ⟨h0, h255⟩ := foldBack_bounds hlo hhi
  rw [outByte_toNat, Int.emod_eq_of_lt h0 (by omega)]

/-! ## The ranges of the mixed values -/

/-- An inactive voice is silent and an active one gives a recentred byte (R185). -/
theorem voiceSample_bounds (v : VoiceNo) : -127 ≤ t.voiceSample v ∧ t.voiceSample v ≤ 128 := by
  unfold State.voiceSample
  split
  · exact recentre_bounds _
  · decide

/-- A closed gate is silent and an open one gives a recentred byte scaled by at most unity (R203, R206). -/
theorem oscillatorSample_bounds (h : t.tick.clickAmp.toNat ≤ 64) (table : List Byte) (acc : Word) :
    -127 ≤ t.oscillatorSample table acc ∧ t.oscillatorSample table acc ≤ 128 := by
  unfold State.oscillatorSample
  split
  · exact scaleByAmp_bounds h (recentre_bounds _)
  · decide

theorem clickSample_bounds (h : t.tick.clickAmp.toNat ≤ 64) : -127 ≤ t.clickSample ∧ t.clickSample ≤ 128 := by
  rw [clickSample_eq]; exact oscillatorSample_bounds h _ _

theorem noiseSample_bounds (h : t.tick.clickAmp.toNat ≤ 64) : -127 ≤ t.noiseSample ∧ t.noiseSample ≤ 128 := by
  rw [noiseSample_eq]; exact oscillatorSample_bounds h _ _

/-- Six voices (R207). -/
theorem voiceSum_bounds (t : State) : -762 ≤ t.voiceSum ∧ t.voiceSum ≤ 768 := by
  have hv := voiceSample_bounds (t := t)
  have h0 := hv 0
  have h1 := hv 1
  have h2 := hv 2
  have h3 := hv 3
  have h4 := hv 4
  have h5 := hv 5
  unfold State.voiceSum
  omega

/-- Direct mode (R208). -/
theorem mixDirect_bounds {sum6 click : Int} (hsum : -762 ≤ sum6 ∧ sum6 ≤ 768) (hclick : -127 ≤ click ∧ click ≤ 128) :
    -318 ≤ mixDirect sum6 click ∧ mixDirect sum6 click ≤ 575 := by
  simp only [mixDirect, asr, centre]
  omega

/-- The blend, whatever the shift (R209). -/
theorem blendOf_bounds (shift : Nat) {click noise : Int} (hclick : -127 ≤ click ∧ click ≤ 128)
    (hnoise : -127 ≤ noise ∧ noise ≤ 128) : -128 ≤ blendOf shift click noise ∧ blendOf shift click noise ≤ 255 := by
  have hshift := asr_bounds shift hclick
  exact or16_bounds (by omega) (by omega)

/-- Blend mode (R209). -/
theorem mixBlended_bounds {shift : Nat} {sum6 click noise : Int} (hsum : -762 ≤ sum6 ∧ sum6 ≤ 768)
    (hblend : -128 ≤ blendOf shift click noise ∧ blendOf shift click noise ≤ 255) :
    -763 ≤ mixBlended shift sum6 click noise ∧ mixBlended shift sum6 click noise ≤ 1150 := by
  simp only [mixBlended, centre]
  omega

/-- Settles O32: a TICK keeps the amplitude at most 64, and each value's range follows from those it is mixed from. -/
theorem mixerRanges : Obligations.MixerRanges := by
  intro s hs
  have hamp := tickState_clickAmp_le s hs
  have hsum := voiceSum_bounds (tickState s)
  have hclick := clickSample_bounds hamp
  have hnoise := noiseSample_bounds hamp
  have hdirect := mixDirect_bounds hsum hclick
  have hblend := blendOf_bounds s.cfg.blendClickShift hclick hnoise
  have hblended := mixBlended_bounds hsum hblend
  exact ⟨tickState s, exec_tick s, voiceSample_bounds, hsum.1, hsum.2, hclick.1, hclick.2, hnoise.1, hnoise.2,
    hdirect.1, hdirect.2, hblend.1, hblend.2, hblended.1, hblended.2⟩

end Sys2Proof.Machine
end

section
/-! The recorder's commands RECTOGGLE and LOOPITER (`spec/45_recorder.md` R236, R240, R242). -/

namespace Sys2Proof.Machine

variable {s : State}

/-! ## RECTOGGLE -/

/-- Entering record starts the transport (R240). -/
theorem toggleRecord_of_not_recording (h : s.host.record = false) :
    toggleRecord s = { s with host := { s.host with record := true, play := true, eraseCount := 0 } } := by
  simp only [toggleRecord, h, Bool.not_false, Bool.or_true]

/-- Leaving record keeps the transport as it is (R240). -/
theorem toggleRecord_of_recording (h : s.host.record = true) :
    toggleRecord s = { s with host := { s.host with record := false, eraseCount := 0 } } := by
  simp only [toggleRecord, h, Bool.not_true, Bool.or_false]

/-- Settles O44: the word, and the toggle from either value of record. -/
theorem rectoggleTogglesRecord : Obligations.RectoggleTogglesRecord :=
  ⟨by decide, fun s h => (exec_rectoggle s).trans (congrArg _ (toggleRecord_of_not_recording h)),
    fun s h => (exec_rectoggle s).trans (congrArg _ (toggleRecord_of_recording h))⟩

/-! ## LOOPITER -/

/-- With no erase armed a LOOPITER clears the count (R242). -/
theorem loopIteration_of_not_armed (h : ¬s.host.eraseArmed = true) : loopIteration s = withEraseCount 0 s := by
  rcases loopIteration_cases s with ⟨-, heq⟩ | ⟨harmed, -, -⟩ | ⟨harmed, -, -⟩
  · exact heq
  · exact absurd harmed h
  · exact absurd harmed h

/-- An armed LOOPITER that does not reach the threshold counts (R242). -/
theorem loopIteration_of_armed_of_ne (h : s.host.eraseArmed = true) (h8 : s.host.eraseCount + 1 ≠ 800) :
    loopIteration s = withEraseCount (s.host.eraseCount + 1) s := by
  rcases loopIteration_cases s with ⟨hna, -⟩ | ⟨-, -, heq⟩ | ⟨-, heq8, -⟩
  · rw [h] at hna; cases hna
  · exact heq
  · exact absurd heq8 h8

/-- An armed LOOPITER that reaches the threshold erases (R236, R242). -/
theorem loopIteration_of_armed_of_eq (h : s.host.eraseArmed = true) (h8 : s.host.eraseCount + 1 = 800) :
    loopIteration s = eraseBank s := by
  have hcount := loopIteration_erases h
  rwa [← (eraseCount_succ_eq_iff _).mp h8, withEraseCount_self] at hcount

/-- Settles O45: the word, the three outcomes of a LOOPITER, and the slots the erase clears and keeps. -/
theorem loopiterCountsAndErases : Obligations.LoopiterCountsAndErases := by
  refine ⟨by decide, fun s hna => ?_, fun s hr hh hb h8 => ?_, fun s hr hh hb h8 => ?_⟩
  · rw [exec_loopiter, loopIteration_of_not_armed (mt (eraseArmed_iff _).mp hna)]; rfl
  · rw [exec_loopiter, loopIteration_of_armed_of_ne ((eraseArmed_iff _).mpr ⟨hr, hh, hb⟩) h8]; rfl
  · refine ⟨eraseBank s, ?_, rfl, fun a => ⟨eraseBank_reads_zero, eraseBank_reads_old⟩⟩
    rw [exec_loopiter, loopIteration_of_armed_of_eq ((eraseArmed_iff _).mpr ⟨hr, hh, hb⟩) h8]

end Sys2Proof.Machine
end

section
/-! NOP and the register access RDREG and RDSEQ (`spec/46_control.md` R260, R263, R265). -/

namespace Sys2Proof.Machine

variable {s : State}

/-! ## NOP -/

/-- Settles O36: the word, the effect, and the row that opcode 0 selects. -/
theorem nopChangesNothing : Obligations.NopChangesNothing :=
  ⟨rfl, fun s => exec_nop s, fun _ => decode_nop⟩

/-! ## RDREG -/

/-- The word of RDREG: opcode 0xD, the register's number in the low 5 bits (R101, R263). -/
theorem encode_rdreg_decodeReg (r : BitVec 5) :
    encode (.rdreg (decodeReg r)) = 0xD0000000#32 ||| r.setWidth 32 := by
  revert r; decide

/-- A register that has a view loads it (R263). -/
theorem readRegister_of_not_isReserved {r : RegSel} (h : (Instr.rdreg r).isReserved = false) :
    readRegister r s = loadRdata (s.regView r) s := by
  cases r with
  | reserved r => cases h
  | _ => rfl

/-- Settles O47: the word, the load of a register that is not reserved, and the effect of a reserved encoding. -/
theorem rdregLoadsTheView : Obligations.RdregLoadsTheView := by
  refine ⟨encode_rdreg_decodeReg, fun r s hr => ?view, fun r s hr => ?reserved⟩
  case view =>
    have hres : (Instr.rdreg (decodeReg r)).isReserved = false := by
      rw [rdreg_isReserved]; exact decide_eq_false (by omega)
    rw [exec_rdreg, readRegister_of_not_isReserved hres]; rfl
  case reserved =>
    exact exec_of_isReserved ((rdreg_isReserved r).trans (decide_eq_true hr)) s

/-! ## RDSEQ -/

/-- The word of RDSEQ: opcode 0xE, the space in bit 12, the track from bit 8, the slot address in the low 7 bits (R101,
R265). -/
theorem encode_rdseq_decodeSeq (sp : BitVec 1) (t : BitVec 2) (a : Slot) : encode (.rdseq (decodeSeq sp t a)) =
    0xE0000000#32 ||| (sp.setWidth 32 <<< 12) ||| (t.setWidth 32 <<< 8) ||| a.setWidth 32 := by
  have hhigh : (0xE#4 ++ 0#15 ++ sp ++ 0#2 ++ t ++ 0#1).shiftLeftZeroExtend 7 =
      0xE0000000#32 ||| (sp.setWidth 32 <<< 12) ||| (t.setWidth 32 <<< 8) := by revert sp t; decide
  rw [encode, encodeSeq_decodeSeq, ← hhigh]
  exact BitVec.append_def _ _

/-- In the pitch space, track `2 + m` names the pitches of melodic track `m` (R106). -/
theorem decodeSeq_pitch {t : BitVec 2} {m : Melodic} (h : t.toNat = 2 + m.val) (a : Slot) :
    decodeSeq 1 t a = .pitch m a := by
  obtain rfl : t = BitVec.ofNat 2 (m.val + 2) := by
    revert t m; decide
  exact decodeSeq_encodeSeq (q := .pitch m a) rfl

/-- Settles O50: the word, the slot each field combination names, and the effect of a reserved encoding. -/
theorem rdseqLoadsOneSlot : Obligations.RdseqLoadsOneSlot := by
  refine ⟨encode_rdseq_decodeSeq, fun t a s => rfl, fun t m a s ht => ?pitch, fun t a s ht => ?reserved⟩
  case pitch => rw [decodeSeq_pitch ht, exec_rdseq]; rfl
  case reserved =>
    exact exec_of_isReserved ((rdseq_isReserved 1 t a).trans (decide_eq_true ⟨rfl, ht⟩)) s

end Sys2Proof.Machine
end

section
/-! That every operation completes, and the reset state: its fields, its first TICK and the invariant
(`spec/60_exceptions.md` R280, `spec/70_reset_and_hazards.md` R300, R301). -/

namespace Sys2Proof.Machine

/-- Settles O8, from the state each operation leaves. -/
theorem everyOperationCompletes : Obligations.EveryOperationCompletes := fun i s =>
  ⟨after i s, exec_eq_after s i, after_cfg s i, after_pending s i⟩

/-! ## Reset values -/

/-- Every voice is idle after reset (R45, R300). -/
theorem resetWith_voices (cfg : Config) (v : VoiceNo) : (State.resetWith cfg).tick.voices[v] = Voice.idle :=
  Vector.getElem_replicate v.isLt

/-- No live latch is set after reset (R44, R300). -/
theorem resetWith_live (cfg : Config) (n : Track) : (State.resetWith cfg).latch.live[n] = false :=
  Vector.getElem_replicate n.isLt

/-- Settles O10: the registers are written out in `State.resetWith`, the increments are configured or 0, and a slot of
an empty store reads 0. -/
theorem resetValues : Obligations.ResetValues := fun cfg =>
  ⟨rfl, ⟨rfl, rfl, rfl, rfl, rfl, rfl, rfl, rfl, rfl, rfl, rfl, rfl⟩,
    ⟨rfl, rfl, rfl, rfl, rfl, rfl, rfl, rfl, rfl, rfl, rfl, rfl, rfl, rfl, rfl⟩,
    resetWith_voices cfg, inc_percussive (State.resetWith cfg), resetWith_inc_pitched cfg (by decide),
    resetWith_inc_pitched cfg (by decide), ⟨rfl, rfl, rfl, rfl, rfl, rfl⟩, fun _ _ => Store.read_nil _,
    fun _ _ => Store.read_nil _⟩

/-! ## The first TICK -/

/-- With every voice inactive and the click gate closed, both mixes give the silence level (R207 to R209). -/
theorem preFold_of_silent {t : State} (hvoices : ∀ v : VoiceNo, t.tick.voices[v].active = false)
    (hgate : t.clickGate = false) : t.preFold = centre := by
  have hsum : t.voiceSum = 0 := voiceSum_eq (x := 0) fun v => if_neg (Bool.eq_false_iff.mp (hvoices v))
  have hclick : t.clickSample = 0 := if_neg (Bool.eq_false_iff.mp hgate)
  have hnoise : t.noiseSample = 0 := if_neg (Bool.eq_false_iff.mp hgate)
  cases hmode : t.host.mixBlend with
  | false => rw [preFold_direct hmode, hsum, hclick]; rfl
  | true => rw [preFold_blend hmode, hsum, hclick, hnoise, Int.zero_ediv]; rfl

/-- With the transport stopped and no live latch set, the first TICK triggers no voice, so every voice stays idle
(R133, R301). -/
theorem tickState_resetWith_voices (cfg : Config) (v : VoiceNo) :
    (tickState (State.resetWith cfg)).tick.voices[v] = Voice.idle := by
  have htrig : (tickTime (State.resetWith cfg)).voiceTrig (tickTime (State.resetWith cfg)).stepEdge v = false := by
    rw [Bool.eq_false_iff, Ne, tickTime_voiceTrig_stopped_iff rfl]
    rintro ⟨n, -, hlive⟩
    exact Bool.false_ne_true ((resetWith_live cfg n).symm.trans hlive)
  have hstop : (State.resetWith cfg).stopReset = false := rfl
  rw [tickState_voices, htrig, hstop, resetWith_voices]
  exact Voice.next_inactive rfl _ _

/-- The sample of the first TICK is the silence level (R301). -/
theorem tickState_resetWith_sample (cfg : Config) : (tickState (State.resetWith cfg)).tick.sample = 127 := by
  have hgate : (tickState (State.resetWith cfg)).clickGate = false := by
    rw [Bool.eq_false_iff, Ne, clickGate_iff, tickState_host]
    rintro ⟨hplay, -, -⟩
    exact Bool.false_ne_true hplay
  rw [tickState_sample, preFold_of_silent (fun v => by rw [tickState_resetWith_voices]; rfl) hgate]
  rfl

/-- Settles O12: the TICK takes the stopped branch, leaves every voice idle and emits the silence level. -/
theorem firstTickAfterResetIsSilent : Obligations.FirstTickAfterResetIsSilent := by
  intro cfg
  have hstep : (tickTime (State.resetWith cfg)).tick.stepIndex = 31 := (tickTime_stopped _ rfl).1
  refine ⟨tickState (State.resetWith cfg), exec_tick _, by rw [tickState_stepIndex, hstep],
    by rw [tickState_prevStepIndex, hstep], tickState_tickCounter _, ?_, tickState_resetWith_sample cfg,
    fun v => by rw [tickState_resetWith_voices]; rfl⟩
  rw [tickState_emitted, tickState_resetWith_sample]
  rfl

/-! ## The invariant -/

/-- The reset state meets the invariant; its step length is positive by the configuration's check (R33). -/
theorem resetWith_inv (cfg : Config) : Inv (State.resetWith cfg) where
  voices v := by rw [resetWith_voices]; exact Voice.idle_inv _
  time := ⟨cfg.stepLengthReset_pos, rfl, fun _ => ⟨rfl, rfl⟩⟩
  tap := ⟨Nat.zero_le 2, fun i => by simp [State.resetWith]⟩
  click := ⟨Nat.zero_le 64, .inl rfl, Nat.succ_pos 4, .inl rfl⟩
  recorder := .of_count_zero rfl nofun nofun
  stream := ⟨rfl, rfl⟩
  memory := resetWith_mem_wf cfg

/-- Settles O58: the machine's reset state is the one under the installed configuration. -/
theorem resetMeetsInv : Obligations.ResetMeetsInv := ⟨resetWith_inv, resetWith_inv Config.installed⟩

end Sys2Proof.Machine
end
